-- ==== Sys2Proof/Word.lean ====
section
/-! DEFINITION. The two word types of the block: the byte, its unit of access (R51), and the 16-bit word of
addresses and of the program counter (R6, R22, R50). -/

namespace Sys2Proof

/-- One byte: A, X, Y, S, an operand byte, a memory byte (R6, R51). -/
abbrev Byte := BitVec 8

/-- One 16-bit word: an address or the program counter (R6, R22, R50). -/
abbrev Word := BitVec 16

end Sys2Proof
end

