-- ==== Sys2Proof/Syntax.lean ====
section
/-! DEFINITION. The syntax of the instruction set: one constructor of `Instr` per row of the opcode map (R95,
spec/opcode_table.json), with its operand byte or operand word as the constructor's argument (R90, R92); and the two
views of an instruction that the addressing rules speak of, its mnemonic and its operand in one of the 13 modes. -/

namespace Sys2Proof

/-- The 56 mnemonics of the opcode map (R95), family by family. -/
inductive Mnemonic where
  -- 41_load_store_transfer.md
  | lda | ldx | ldy | sta | stx | sty | tax | tay | txa | tya | tsx | txs
  -- 42_stack.md
  | pha | php | pla | plp
  -- 43_arith_logic.md
  | adc | sbc | and | ora | eor | cmp | cpx | cpy | bit
  -- 44_incdec_shift.md
  | inc | dec | inx | iny | dex | dey | asl | lsr | rol | ror
  -- 45_control_system.md
  | jmp | jsr | rts | rti | bcc | bcs | beq | bne | bmi | bpl | bvc | bvs | clc | sec | cli | sei
  | cld | sed | clv | nop | brk
  deriving DecidableEq, Repr

/-- The 13 addressing modes (R90, R91). -/
inductive Mode where
  | imp | acc | imm | zp | zpx | zpy | abs | absx | absy | ind | indx | indy | rel
  deriving DecidableEq, Repr

/-- The encoded length of an instruction of each mode (R91). -/
def Mode.length : Mode → Nat
  | .imp | .acc => 1
  | .imm | .zp | .zpx | .zpy | .rel | .indx | .indy => 2
  | .abs | .absx | .absy | .ind => 3

/-- An operand: the mode with the operand field that the mode reads (R92, R110 to R123). -/
inductive Operand where
  | imp
  | acc
  | imm (v : Byte)
  | zp (z : Byte)
  | zpx (z : Byte)
  | zpy (z : Byte)
  | abs (w : Word)
  | absx (w : Word)
  | absy (w : Word)
  | ind (w : Word)
  | indx (z : Byte)
  | indy (z : Byte)
  | rel (r : Byte)
  deriving DecidableEq, Repr

/-- The mode of an operand. -/
def Operand.mode : Operand → Mode
  | .imp => .imp
  | .acc => .acc
  | .imm _ => .imm
  | .zp _ => .zp
  | .zpx _ => .zpx
  | .zpy _ => .zpy
  | .abs _ => .abs
  | .absx _ => .absx
  | .absy _ => .absy
  | .ind _ => .ind
  | .indx _ => .indx
  | .indy _ => .indy
  | .rel _ => .rel

/-- The length in bytes of an instruction with this operand (R91). -/
def Operand.length (o : Operand) : Nat :=
  o.mode.length

/-- The instructions: one constructor per row of the opcode map (R95). -/
inductive Instr where
  -- 41_load_store_transfer.md
  | ldaImm (v : Byte)
  | ldaZp (z : Byte)
  | ldaZpx (z : Byte)
  | ldaAbs (w : Word)
  | ldaAbsx (w : Word)
  | ldaAbsy (w : Word)
  | ldaIndx (z : Byte)
  | ldaIndy (z : Byte)
  | ldxImm (v : Byte)
  | ldxZp (z : Byte)
  | ldxZpy (z : Byte)
  | ldxAbs (w : Word)
  | ldxAbsy (w : Word)
  | ldyImm (v : Byte)
  | ldyZp (z : Byte)
  | ldyZpx (z : Byte)
  | ldyAbs (w : Word)
  | ldyAbsx (w : Word)
  | staZp (z : Byte)
  | staZpx (z : Byte)
  | staAbs (w : Word)
  | staAbsx (w : Word)
  | staAbsy (w : Word)
  | staIndx (z : Byte)
  | staIndy (z : Byte)
  | stxZp (z : Byte)
  | stxZpy (z : Byte)
  | stxAbs (w : Word)
  | styZp (z : Byte)
  | styZpx (z : Byte)
  | styAbs (w : Word)
  | tax
  | tay
  | txa
  | tya
  | tsx
  | txs
  -- 42_stack.md
  | pha
  | php
  | pla
  | plp
  -- 43_arith_logic.md
  | adcImm (v : Byte)
  | adcZp (z : Byte)
  | adcZpx (z : Byte)
  | adcAbs (w : Word)
  | adcAbsx (w : Word)
  | adcAbsy (w : Word)
  | adcIndx (z : Byte)
  | adcIndy (z : Byte)
  | sbcImm (v : Byte)
  | sbcZp (z : Byte)
  | sbcZpx (z : Byte)
  | sbcAbs (w : Word)
  | sbcAbsx (w : Word)
  | sbcAbsy (w : Word)
  | sbcIndx (z : Byte)
  | sbcIndy (z : Byte)
  | andImm (v : Byte)
  | andZp (z : Byte)
  | andZpx (z : Byte)
  | andAbs (w : Word)
  | andAbsx (w : Word)
  | andAbsy (w : Word)
  | andIndx (z : Byte)
  | andIndy (z : Byte)
  | oraImm (v : Byte)
  | oraZp (z : Byte)
  | oraZpx (z : Byte)
  | oraAbs (w : Word)
  | oraAbsx (w : Word)
  | oraAbsy (w : Word)
  | oraIndx (z : Byte)
  | oraIndy (z : Byte)
  | eorImm (v : Byte)
  | eorZp (z : Byte)
  | eorZpx (z : Byte)
  | eorAbs (w : Word)
  | eorAbsx (w : Word)
  | eorAbsy (w : Word)
  | eorIndx (z : Byte)
  | eorIndy (z : Byte)
  | cmpImm (v : Byte)
  | cmpZp (z : Byte)
  | cmpZpx (z : Byte)
  | cmpAbs (w : Word)
  | cmpAbsx (w : Word)
  | cmpAbsy (w : Word)
  | cmpIndx (z : Byte)
  | cmpIndy (z : Byte)
  | cpxImm (v : Byte)
  | cpxZp (z : Byte)
  | cpxAbs (w : Word)
  | cpyImm (v : Byte)
  | cpyZp (z : Byte)
  | cpyAbs (w : Word)
  | bitZp (z : Byte)
  | bitAbs (w : Word)
  -- 44_incdec_shift.md
  | incZp (z : Byte)
  | incZpx (z : Byte)
  | incAbs (w : Word)
  | incAbsx (w : Word)
  | decZp (z : Byte)
  | decZpx (z : Byte)
  | decAbs (w : Word)
  | decAbsx (w : Word)
  | inx
  | iny
  | dex
  | dey
  | aslAcc
  | aslZp (z : Byte)
  | aslZpx (z : Byte)
  | aslAbs (w : Word)
  | aslAbsx (w : Word)
  | lsrAcc
  | lsrZp (z : Byte)
  | lsrZpx (z : Byte)
  | lsrAbs (w : Word)
  | lsrAbsx (w : Word)
  | rolAcc
  | rolZp (z : Byte)
  | rolZpx (z : Byte)
  | rolAbs (w : Word)
  | rolAbsx (w : Word)
  | rorAcc
  | rorZp (z : Byte)
  | rorZpx (z : Byte)
  | rorAbs (w : Word)
  | rorAbsx (w : Word)
  -- 45_control_system.md
  | jmpAbs (w : Word)
  | jmpInd (w : Word)
  | jsr (w : Word)
  | rts
  | rti
  | bcc (r : Byte)
  | bcs (r : Byte)
  | beq (r : Byte)
  | bne (r : Byte)
  | bmi (r : Byte)
  | bpl (r : Byte)
  | bvc (r : Byte)
  | bvs (r : Byte)
  | clc
  | sec
  | cli
  | sei
  | cld
  | sed
  | clv
  | nop
  | brk
  deriving DecidableEq, Repr

/-- The mnemonic of an instruction (R93). -/
def Instr.mnemonic : Instr → Mnemonic
  | .ldaImm _ => .lda
  | .ldaZp _ => .lda
  | .ldaZpx _ => .lda
  | .ldaAbs _ => .lda
  | .ldaAbsx _ => .lda
  | .ldaAbsy _ => .lda
  | .ldaIndx _ => .lda
  | .ldaIndy _ => .lda
  | .ldxImm _ => .ldx
  | .ldxZp _ => .ldx
  | .ldxZpy _ => .ldx
  | .ldxAbs _ => .ldx
  | .ldxAbsy _ => .ldx
  | .ldyImm _ => .ldy
  | .ldyZp _ => .ldy
  | .ldyZpx _ => .ldy
  | .ldyAbs _ => .ldy
  | .ldyAbsx _ => .ldy
  | .staZp _ => .sta
  | .staZpx _ => .sta
  | .staAbs _ => .sta
  | .staAbsx _ => .sta
  | .staAbsy _ => .sta
  | .staIndx _ => .sta
  | .staIndy _ => .sta
  | .stxZp _ => .stx
  | .stxZpy _ => .stx
  | .stxAbs _ => .stx
  | .styZp _ => .sty
  | .styZpx _ => .sty
  | .styAbs _ => .sty
  | .tax => .tax
  | .tay => .tay
  | .txa => .txa
  | .tya => .tya
  | .tsx => .tsx
  | .txs => .txs
  | .pha => .pha
  | .php => .php
  | .pla => .pla
  | .plp => .plp
  | .adcImm _ => .adc
  | .adcZp _ => .adc
  | .adcZpx _ => .adc
  | .adcAbs _ => .adc
  | .adcAbsx _ => .adc
  | .adcAbsy _ => .adc
  | .adcIndx _ => .adc
  | .adcIndy _ => .adc
  | .sbcImm _ => .sbc
  | .sbcZp _ => .sbc
  | .sbcZpx _ => .sbc
  | .sbcAbs _ => .sbc
  | .sbcAbsx _ => .sbc
  | .sbcAbsy _ => .sbc
  | .sbcIndx _ => .sbc
  | .sbcIndy _ => .sbc
  | .andImm _ => .and
  | .andZp _ => .and
  | .andZpx _ => .and
  | .andAbs _ => .and
  | .andAbsx _ => .and
  | .andAbsy _ => .and
  | .andIndx _ => .and
  | .andIndy _ => .and
  | .oraImm _ => .ora
  | .oraZp _ => .ora
  | .oraZpx _ => .ora
  | .oraAbs _ => .ora
  | .oraAbsx _ => .ora
  | .oraAbsy _ => .ora
  | .oraIndx _ => .ora
  | .oraIndy _ => .ora
  | .eorImm _ => .eor
  | .eorZp _ => .eor
  | .eorZpx _ => .eor
  | .eorAbs _ => .eor
  | .eorAbsx _ => .eor
  | .eorAbsy _ => .eor
  | .eorIndx _ => .eor
  | .eorIndy _ => .eor
  | .cmpImm _ => .cmp
  | .cmpZp _ => .cmp
  | .cmpZpx _ => .cmp
  | .cmpAbs _ => .cmp
  | .cmpAbsx _ => .cmp
  | .cmpAbsy _ => .cmp
  | .cmpIndx _ => .cmp
  | .cmpIndy _ => .cmp
  | .cpxImm _ => .cpx
  | .cpxZp _ => .cpx
  | .cpxAbs _ => .cpx
  | .cpyImm _ => .cpy
  | .cpyZp _ => .cpy
  | .cpyAbs _ => .cpy
  | .bitZp _ => .bit
  | .bitAbs _ => .bit
  | .incZp _ => .inc
  | .incZpx _ => .inc
  | .incAbs _ => .inc
  | .incAbsx _ => .inc
  | .decZp _ => .dec
  | .decZpx _ => .dec
  | .decAbs _ => .dec
  | .decAbsx _ => .dec
  | .inx => .inx
  | .iny => .iny
  | .dex => .dex
  | .dey => .dey
  | .aslAcc => .asl
  | .aslZp _ => .asl
  | .aslZpx _ => .asl
  | .aslAbs _ => .asl
  | .aslAbsx _ => .asl
  | .lsrAcc => .lsr
  | .lsrZp _ => .lsr
  | .lsrZpx _ => .lsr
  | .lsrAbs _ => .lsr
  | .lsrAbsx _ => .lsr
  | .rolAcc => .rol
  | .rolZp _ => .rol
  | .rolZpx _ => .rol
  | .rolAbs _ => .rol
  | .rolAbsx _ => .rol
  | .rorAcc => .ror
  | .rorZp _ => .ror
  | .rorZpx _ => .ror
  | .rorAbs _ => .ror
  | .rorAbsx _ => .ror
  | .jmpAbs _ => .jmp
  | .jmpInd _ => .jmp
  | .jsr _ => .jsr
  | .rts => .rts
  | .rti => .rti
  | .bcc _ => .bcc
  | .bcs _ => .bcs
  | .beq _ => .beq
  | .bne _ => .bne
  | .bmi _ => .bmi
  | .bpl _ => .bpl
  | .bvc _ => .bvc
  | .bvs _ => .bvs
  | .clc => .clc
  | .sec => .sec
  | .cli => .cli
  | .sei => .sei
  | .cld => .cld
  | .sed => .sed
  | .clv => .clv
  | .nop => .nop
  | .brk => .brk

/-- The operand of an instruction, with its addressing mode (R92, R93). -/
def Instr.operand : Instr → Operand
  | .ldaImm v => .imm v
  | .ldaZp z => .zp z
  | .ldaZpx z => .zpx z
  | .ldaAbs w => .abs w
  | .ldaAbsx w => .absx w
  | .ldaAbsy w => .absy w
  | .ldaIndx z => .indx z
  | .ldaIndy z => .indy z
  | .ldxImm v => .imm v
  | .ldxZp z => .zp z
  | .ldxZpy z => .zpy z
  | .ldxAbs w => .abs w
  | .ldxAbsy w => .absy w
  | .ldyImm v => .imm v
  | .ldyZp z => .zp z
  | .ldyZpx z => .zpx z
  | .ldyAbs w => .abs w
  | .ldyAbsx w => .absx w
  | .staZp z => .zp z
  | .staZpx z => .zpx z
  | .staAbs w => .abs w
  | .staAbsx w => .absx w
  | .staAbsy w => .absy w
  | .staIndx z => .indx z
  | .staIndy z => .indy z
  | .stxZp z => .zp z
  | .stxZpy z => .zpy z
  | .stxAbs w => .abs w
  | .styZp z => .zp z
  | .styZpx z => .zpx z
  | .styAbs w => .abs w
  | .tax => .imp
  | .tay => .imp
  | .txa => .imp
  | .tya => .imp
  | .tsx => .imp
  | .txs => .imp
  | .pha => .imp
  | .php => .imp
  | .pla => .imp
  | .plp => .imp
  | .adcImm v => .imm v
  | .adcZp z => .zp z
  | .adcZpx z => .zpx z
  | .adcAbs w => .abs w
  | .adcAbsx w => .absx w
  | .adcAbsy w => .absy w
  | .adcIndx z => .indx z
  | .adcIndy z => .indy z
  | .sbcImm v => .imm v
  | .sbcZp z => .zp z
  | .sbcZpx z => .zpx z
  | .sbcAbs w => .abs w
  | .sbcAbsx w => .absx w
  | .sbcAbsy w => .absy w
  | .sbcIndx z => .indx z
  | .sbcIndy z => .indy z
  | .andImm v => .imm v
  | .andZp z => .zp z
  | .andZpx z => .zpx z
  | .andAbs w => .abs w
  | .andAbsx w => .absx w
  | .andAbsy w => .absy w
  | .andIndx z => .indx z
  | .andIndy z => .indy z
  | .oraImm v => .imm v
  | .oraZp z => .zp z
  | .oraZpx z => .zpx z
  | .oraAbs w => .abs w
  | .oraAbsx w => .absx w
  | .oraAbsy w => .absy w
  | .oraIndx z => .indx z
  | .oraIndy z => .indy z
  | .eorImm v => .imm v
  | .eorZp z => .zp z
  | .eorZpx z => .zpx z
  | .eorAbs w => .abs w
  | .eorAbsx w => .absx w
  | .eorAbsy w => .absy w
  | .eorIndx z => .indx z
  | .eorIndy z => .indy z
  | .cmpImm v => .imm v
  | .cmpZp z => .zp z
  | .cmpZpx z => .zpx z
  | .cmpAbs w => .abs w
  | .cmpAbsx w => .absx w
  | .cmpAbsy w => .absy w
  | .cmpIndx z => .indx z
  | .cmpIndy z => .indy z
  | .cpxImm v => .imm v
  | .cpxZp z => .zp z
  | .cpxAbs w => .abs w
  | .cpyImm v => .imm v
  | .cpyZp z => .zp z
  | .cpyAbs w => .abs w
  | .bitZp z => .zp z
  | .bitAbs w => .abs w
  | .incZp z => .zp z
  | .incZpx z => .zpx z
  | .incAbs w => .abs w
  | .incAbsx w => .absx w
  | .decZp z => .zp z
  | .decZpx z => .zpx z
  | .decAbs w => .abs w
  | .decAbsx w => .absx w
  | .inx => .imp
  | .iny => .imp
  | .dex => .imp
  | .dey => .imp
  | .aslAcc => .acc
  | .aslZp z => .zp z
  | .aslZpx z => .zpx z
  | .aslAbs w => .abs w
  | .aslAbsx w => .absx w
  | .lsrAcc => .acc
  | .lsrZp z => .zp z
  | .lsrZpx z => .zpx z
  | .lsrAbs w => .abs w
  | .lsrAbsx w => .absx w
  | .rolAcc => .acc
  | .rolZp z => .zp z
  | .rolZpx z => .zpx z
  | .rolAbs w => .abs w
  | .rolAbsx w => .absx w
  | .rorAcc => .acc
  | .rorZp z => .zp z
  | .rorZpx z => .zpx z
  | .rorAbs w => .abs w
  | .rorAbsx w => .absx w
  | .jmpAbs w => .abs w
  | .jmpInd w => .ind w
  | .jsr w => .abs w
  | .rts => .imp
  | .rti => .imp
  | .bcc r => .rel r
  | .bcs r => .rel r
  | .beq r => .rel r
  | .bne r => .rel r
  | .bmi r => .rel r
  | .bpl r => .rel r
  | .bvc r => .rel r
  | .bvs r => .rel r
  | .clc => .imp
  | .sec => .imp
  | .cli => .imp
  | .sei => .imp
  | .cld => .imp
  | .sed => .imp
  | .clv => .imp
  | .nop => .imp
  | .brk => .imp

end Sys2Proof
end

