-- ==== Sys2Proof/Decode.lean ====
section
/-! DEFINITION. The encoding (30_encoding.md): the descriptor table of R95, the decoder, total on any bytes (R97), the
encoder, and the reading of a word of spec/opcode_table.json. -/

namespace Sys2Proof

/-- The low byte of a word. -/
def lowByte (w : Word) : Byte :=
  w.setWidth 8

/-- The high byte of a word. -/
def highByte (w : Word) : Byte :=
  (w >>> 8).setWidth 8

/-- `hi:lo`, the word of two bytes, the first of them the one at the lower address (R9, R52). -/
def wordOf (lo hi : Byte) : Word :=
  hi ++ lo

/-- The three instruction formats (R90), each with the instruction that its operand bytes make. -/
inductive Form where
  | f1 (i : Instr)
  | f2 (mk : Byte → Instr)
  | f3 (mk : Word → Instr)

/-- One row of the descriptor table: the tuple of R93 with its opcode byte and the instruction it stands for. -/
structure Row where
  opcode : Byte
  mnemonic : Mnemonic
  mode : Mode
  /-- the base clocks -/
  clocks : Nat
  /-- whether a page crossing adds one clock (R233) -/
  pageCross : Bool
  form : Form

/-- The descriptor table (R95), opcodes 0x00 to 0x1D. -/
def rows00to1D : List Row := [
  ⟨0x00, .brk, .imp, 7, false, .f1 .brk⟩,
  ⟨0x01, .ora, .indx, 6, false, .f2 .oraIndx⟩,
  ⟨0x05, .ora, .zp, 3, false, .f2 .oraZp⟩,
  ⟨0x06, .asl, .zp, 5, false, .f2 .aslZp⟩,
  ⟨0x08, .php, .imp, 3, false, .f1 .php⟩,
  ⟨0x09, .ora, .imm, 2, false, .f2 .oraImm⟩,
  ⟨0x0A, .asl, .acc, 2, false, .f1 .aslAcc⟩,
  ⟨0x0D, .ora, .abs, 4, false, .f3 .oraAbs⟩,
  ⟨0x0E, .asl, .abs, 6, false, .f3 .aslAbs⟩,
  ⟨0x10, .bpl, .rel, 2, false, .f2 .bpl⟩,
  ⟨0x11, .ora, .indy, 5, true, .f2 .oraIndy⟩,
  ⟨0x15, .ora, .zpx, 4, false, .f2 .oraZpx⟩,
  ⟨0x16, .asl, .zpx, 6, false, .f2 .aslZpx⟩,
  ⟨0x18, .clc, .imp, 2, false, .f1 .clc⟩,
  ⟨0x19, .ora, .absy, 4, true, .f3 .oraAbsy⟩,
  ⟨0x1D, .ora, .absx, 4, true, .f3 .oraAbsx⟩]

/-- The descriptor table (R95), opcodes 0x1E to 0x36. -/
def rows1Eto36 : List Row := [
  ⟨0x1E, .asl, .absx, 7, false, .f3 .aslAbsx⟩,
  ⟨0x20, .jsr, .abs, 6, false, .f3 .jsr⟩,
  ⟨0x21, .and, .indx, 6, false, .f2 .andIndx⟩,
  ⟨0x24, .bit, .zp, 3, false, .f2 .bitZp⟩,
  ⟨0x25, .and, .zp, 3, false, .f2 .andZp⟩,
  ⟨0x26, .rol, .zp, 5, false, .f2 .rolZp⟩,
  ⟨0x28, .plp, .imp, 4, false, .f1 .plp⟩,
  ⟨0x29, .and, .imm, 2, false, .f2 .andImm⟩,
  ⟨0x2A, .rol, .acc, 2, false, .f1 .rolAcc⟩,
  ⟨0x2C, .bit, .abs, 4, false, .f3 .bitAbs⟩,
  ⟨0x2D, .and, .abs, 4, false, .f3 .andAbs⟩,
  ⟨0x2E, .rol, .abs, 6, false, .f3 .rolAbs⟩,
  ⟨0x30, .bmi, .rel, 2, false, .f2 .bmi⟩,
  ⟨0x31, .and, .indy, 5, true, .f2 .andIndy⟩,
  ⟨0x35, .and, .zpx, 4, false, .f2 .andZpx⟩,
  ⟨0x36, .rol, .zpx, 6, false, .f2 .rolZpx⟩]

/-- The descriptor table (R95), opcodes 0x38 to 0x51. -/
def rows38to51 : List Row := [
  ⟨0x38, .sec, .imp, 2, false, .f1 .sec⟩,
  ⟨0x39, .and, .absy, 4, true, .f3 .andAbsy⟩,
  ⟨0x3D, .and, .absx, 4, true, .f3 .andAbsx⟩,
  ⟨0x3E, .rol, .absx, 7, false, .f3 .rolAbsx⟩,
  ⟨0x40, .rti, .imp, 6, false, .f1 .rti⟩,
  ⟨0x41, .eor, .indx, 6, false, .f2 .eorIndx⟩,
  ⟨0x45, .eor, .zp, 3, false, .f2 .eorZp⟩,
  ⟨0x46, .lsr, .zp, 5, false, .f2 .lsrZp⟩,
  ⟨0x48, .pha, .imp, 3, false, .f1 .pha⟩,
  ⟨0x49, .eor, .imm, 2, false, .f2 .eorImm⟩,
  ⟨0x4A, .lsr, .acc, 2, false, .f1 .lsrAcc⟩,
  ⟨0x4C, .jmp, .abs, 3, false, .f3 .jmpAbs⟩,
  ⟨0x4D, .eor, .abs, 4, false, .f3 .eorAbs⟩,
  ⟨0x4E, .lsr, .abs, 6, false, .f3 .lsrAbs⟩,
  ⟨0x50, .bvc, .rel, 2, false, .f2 .bvc⟩,
  ⟨0x51, .eor, .indy, 5, true, .f2 .eorIndy⟩]

/-- The descriptor table (R95), opcodes 0x55 to 0x6E. -/
def rows55to6E : List Row := [
  ⟨0x55, .eor, .zpx, 4, false, .f2 .eorZpx⟩,
  ⟨0x56, .lsr, .zpx, 6, false, .f2 .lsrZpx⟩,
  ⟨0x58, .cli, .imp, 2, false, .f1 .cli⟩,
  ⟨0x59, .eor, .absy, 4, true, .f3 .eorAbsy⟩,
  ⟨0x5D, .eor, .absx, 4, true, .f3 .eorAbsx⟩,
  ⟨0x5E, .lsr, .absx, 7, false, .f3 .lsrAbsx⟩,
  ⟨0x60, .rts, .imp, 6, false, .f1 .rts⟩,
  ⟨0x61, .adc, .indx, 6, false, .f2 .adcIndx⟩,
  ⟨0x65, .adc, .zp, 3, false, .f2 .adcZp⟩,
  ⟨0x66, .ror, .zp, 5, false, .f2 .rorZp⟩,
  ⟨0x68, .pla, .imp, 4, false, .f1 .pla⟩,
  ⟨0x69, .adc, .imm, 2, false, .f2 .adcImm⟩,
  ⟨0x6A, .ror, .acc, 2, false, .f1 .rorAcc⟩,
  ⟨0x6C, .jmp, .ind, 5, false, .f3 .jmpInd⟩,
  ⟨0x6D, .adc, .abs, 4, false, .f3 .adcAbs⟩,
  ⟨0x6E, .ror, .abs, 6, false, .f3 .rorAbs⟩]

/-- The descriptor table (R95), opcodes 0x70 to 0x8D. -/
def rows70to8D : List Row := [
  ⟨0x70, .bvs, .rel, 2, false, .f2 .bvs⟩,
  ⟨0x71, .adc, .indy, 5, true, .f2 .adcIndy⟩,
  ⟨0x75, .adc, .zpx, 4, false, .f2 .adcZpx⟩,
  ⟨0x76, .ror, .zpx, 6, false, .f2 .rorZpx⟩,
  ⟨0x78, .sei, .imp, 2, false, .f1 .sei⟩,
  ⟨0x79, .adc, .absy, 4, true, .f3 .adcAbsy⟩,
  ⟨0x7D, .adc, .absx, 4, true, .f3 .adcAbsx⟩,
  ⟨0x7E, .ror, .absx, 7, false, .f3 .rorAbsx⟩,
  ⟨0x81, .sta, .indx, 6, false, .f2 .staIndx⟩,
  ⟨0x84, .sty, .zp, 3, false, .f2 .styZp⟩,
  ⟨0x85, .sta, .zp, 3, false, .f2 .staZp⟩,
  ⟨0x86, .stx, .zp, 3, false, .f2 .stxZp⟩,
  ⟨0x88, .dey, .imp, 2, false, .f1 .dey⟩,
  ⟨0x8A, .txa, .imp, 2, false, .f1 .txa⟩,
  ⟨0x8C, .sty, .abs, 4, false, .f3 .styAbs⟩,
  ⟨0x8D, .sta, .abs, 4, false, .f3 .staAbs⟩]

/-- The descriptor table (R95), opcodes 0x8E to 0xA6. -/
def rows8EtoA6 : List Row := [
  ⟨0x8E, .stx, .abs, 4, false, .f3 .stxAbs⟩,
  ⟨0x90, .bcc, .rel, 2, false, .f2 .bcc⟩,
  ⟨0x91, .sta, .indy, 6, false, .f2 .staIndy⟩,
  ⟨0x94, .sty, .zpx, 4, false, .f2 .styZpx⟩,
  ⟨0x95, .sta, .zpx, 4, false, .f2 .staZpx⟩,
  ⟨0x96, .stx, .zpy, 4, false, .f2 .stxZpy⟩,
  ⟨0x98, .tya, .imp, 2, false, .f1 .tya⟩,
  ⟨0x99, .sta, .absy, 5, false, .f3 .staAbsy⟩,
  ⟨0x9A, .txs, .imp, 2, false, .f1 .txs⟩,
  ⟨0x9D, .sta, .absx, 5, false, .f3 .staAbsx⟩,
  ⟨0xA0, .ldy, .imm, 2, false, .f2 .ldyImm⟩,
  ⟨0xA1, .lda, .indx, 6, false, .f2 .ldaIndx⟩,
  ⟨0xA2, .ldx, .imm, 2, false, .f2 .ldxImm⟩,
  ⟨0xA4, .ldy, .zp, 3, false, .f2 .ldyZp⟩,
  ⟨0xA5, .lda, .zp, 3, false, .f2 .ldaZp⟩,
  ⟨0xA6, .ldx, .zp, 3, false, .f2 .ldxZp⟩]

/-- The descriptor table (R95), opcodes 0xA8 to 0xBD. -/
def rowsA8toBD : List Row := [
  ⟨0xA8, .tay, .imp, 2, false, .f1 .tay⟩,
  ⟨0xA9, .lda, .imm, 2, false, .f2 .ldaImm⟩,
  ⟨0xAA, .tax, .imp, 2, false, .f1 .tax⟩,
  ⟨0xAC, .ldy, .abs, 4, false, .f3 .ldyAbs⟩,
  ⟨0xAD, .lda, .abs, 4, false, .f3 .ldaAbs⟩,
  ⟨0xAE, .ldx, .abs, 4, false, .f3 .ldxAbs⟩,
  ⟨0xB0, .bcs, .rel, 2, false, .f2 .bcs⟩,
  ⟨0xB1, .lda, .indy, 5, true, .f2 .ldaIndy⟩,
  ⟨0xB4, .ldy, .zpx, 4, false, .f2 .ldyZpx⟩,
  ⟨0xB5, .lda, .zpx, 4, false, .f2 .ldaZpx⟩,
  ⟨0xB6, .ldx, .zpy, 4, false, .f2 .ldxZpy⟩,
  ⟨0xB8, .clv, .imp, 2, false, .f1 .clv⟩,
  ⟨0xB9, .lda, .absy, 4, true, .f3 .ldaAbsy⟩,
  ⟨0xBA, .tsx, .imp, 2, false, .f1 .tsx⟩,
  ⟨0xBC, .ldy, .absx, 4, true, .f3 .ldyAbsx⟩,
  ⟨0xBD, .lda, .absx, 4, true, .f3 .ldaAbsx⟩]

/-- The descriptor table (R95), opcodes 0xBE to 0xD6. -/
def rowsBEtoD6 : List Row := [
  ⟨0xBE, .ldx, .absy, 4, true, .f3 .ldxAbsy⟩,
  ⟨0xC0, .cpy, .imm, 2, false, .f2 .cpyImm⟩,
  ⟨0xC1, .cmp, .indx, 6, false, .f2 .cmpIndx⟩,
  ⟨0xC4, .cpy, .zp, 3, false, .f2 .cpyZp⟩,
  ⟨0xC5, .cmp, .zp, 3, false, .f2 .cmpZp⟩,
  ⟨0xC6, .dec, .zp, 5, false, .f2 .decZp⟩,
  ⟨0xC8, .iny, .imp, 2, false, .f1 .iny⟩,
  ⟨0xC9, .cmp, .imm, 2, false, .f2 .cmpImm⟩,
  ⟨0xCA, .dex, .imp, 2, false, .f1 .dex⟩,
  ⟨0xCC, .cpy, .abs, 4, false, .f3 .cpyAbs⟩,
  ⟨0xCD, .cmp, .abs, 4, false, .f3 .cmpAbs⟩,
  ⟨0xCE, .dec, .abs, 6, false, .f3 .decAbs⟩,
  ⟨0xD0, .bne, .rel, 2, false, .f2 .bne⟩,
  ⟨0xD1, .cmp, .indy, 5, true, .f2 .cmpIndy⟩,
  ⟨0xD5, .cmp, .zpx, 4, false, .f2 .cmpZpx⟩,
  ⟨0xD6, .dec, .zpx, 6, false, .f2 .decZpx⟩]

/-- The descriptor table (R95), opcodes 0xD8 to 0xF0. -/
def rowsD8toF0 : List Row := [
  ⟨0xD8, .cld, .imp, 2, false, .f1 .cld⟩,
  ⟨0xD9, .cmp, .absy, 4, true, .f3 .cmpAbsy⟩,
  ⟨0xDD, .cmp, .absx, 4, true, .f3 .cmpAbsx⟩,
  ⟨0xDE, .dec, .absx, 7, false, .f3 .decAbsx⟩,
  ⟨0xE0, .cpx, .imm, 2, false, .f2 .cpxImm⟩,
  ⟨0xE1, .sbc, .indx, 6, false, .f2 .sbcIndx⟩,
  ⟨0xE4, .cpx, .zp, 3, false, .f2 .cpxZp⟩,
  ⟨0xE5, .sbc, .zp, 3, false, .f2 .sbcZp⟩,
  ⟨0xE6, .inc, .zp, 5, false, .f2 .incZp⟩,
  ⟨0xE8, .inx, .imp, 2, false, .f1 .inx⟩,
  ⟨0xE9, .sbc, .imm, 2, false, .f2 .sbcImm⟩,
  ⟨0xEA, .nop, .imp, 2, false, .f1 .nop⟩,
  ⟨0xEC, .cpx, .abs, 4, false, .f3 .cpxAbs⟩,
  ⟨0xED, .sbc, .abs, 4, false, .f3 .sbcAbs⟩,
  ⟨0xEE, .inc, .abs, 6, false, .f3 .incAbs⟩,
  ⟨0xF0, .beq, .rel, 2, false, .f2 .beq⟩]

/-- The descriptor table (R95), opcodes 0xF1 to 0xFE. -/
def rowsF1toFE : List Row := [
  ⟨0xF1, .sbc, .indy, 5, true, .f2 .sbcIndy⟩,
  ⟨0xF5, .sbc, .zpx, 4, false, .f2 .sbcZpx⟩,
  ⟨0xF6, .inc, .zpx, 6, false, .f2 .incZpx⟩,
  ⟨0xF8, .sed, .imp, 2, false, .f1 .sed⟩,
  ⟨0xF9, .sbc, .absy, 4, true, .f3 .sbcAbsy⟩,
  ⟨0xFD, .sbc, .absx, 4, true, .f3 .sbcAbsx⟩,
  ⟨0xFE, .inc, .absx, 7, false, .f3 .incAbsx⟩]

/-- The descriptor table of R95: 151 rows, one per opcode of the map. -/
def opcodeTable : List Row :=
  rows00to1D ++ rows1Eto36 ++ rows38to51 ++ rows55to6E ++ rows70to8D ++
  rows8EtoA6 ++ rowsA8toBD ++ rowsBEtoD6 ++ rowsD8toF0 ++ rowsF1toFE

/-- The row of an opcode byte, or none for the 105 unsupported opcodes (R95, R96). -/
def findRow (op : Byte) : Option Row :=
  opcodeTable.find? (fun r => r.opcode == op)

/-- Why bytes are no instruction. -/
inductive DecodeError where
  /-- one of the 105 opcodes of R96 -/
  | unsupportedOpcode (op : Byte)
  /-- fewer bytes than the instruction's length; a fetch always has them -/
  | truncated
  deriving DecidableEq, Repr

/-- The decoder (R91, R97): the opcode byte fixes the row, the row's format how many operand bytes follow; the answer
is the instruction and the bytes after it. 0x00 decodes to BRK, whose meaning faults unless P_BRK = Standard
(R225). -/
def decode : List Byte → Except DecodeError (Instr × List Byte)
  | [] => .error .truncated
  | op :: rest =>
    match findRow op with
    | none => .error (.unsupportedOpcode op)
    | some r =>
      match r.form, rest with
      | .f1 i, rest => .ok (i, rest)
      | .f2 mk, b1 :: rest => .ok (mk b1, rest)
      | .f3 mk, b1 :: b2 :: rest => .ok (mk (wordOf b1 b2), rest)
      | _, _ => .error .truncated

/-- The length of the instruction that an opcode byte begins (R91), or none where it is unsupported. -/
def opcodeLength (op : Byte) : Option Nat :=
  (findRow op).map (fun r => r.mode.length)

/-- The opcode byte of an instruction, from the opcode map of R95. -/
def Instr.opcode : Instr → Byte
  | .ldaImm _ => 0xA9
  | .ldaZp _ => 0xA5
  | .ldaZpx _ => 0xB5
  | .ldaAbs _ => 0xAD
  | .ldaAbsx _ => 0xBD
  | .ldaAbsy _ => 0xB9
  | .ldaIndx _ => 0xA1
  | .ldaIndy _ => 0xB1
  | .ldxImm _ => 0xA2
  | .ldxZp _ => 0xA6
  | .ldxZpy _ => 0xB6
  | .ldxAbs _ => 0xAE
  | .ldxAbsy _ => 0xBE
  | .ldyImm _ => 0xA0
  | .ldyZp _ => 0xA4
  | .ldyZpx _ => 0xB4
  | .ldyAbs _ => 0xAC
  | .ldyAbsx _ => 0xBC
  | .staZp _ => 0x85
  | .staZpx _ => 0x95
  | .staAbs _ => 0x8D
  | .staAbsx _ => 0x9D
  | .staAbsy _ => 0x99
  | .staIndx _ => 0x81
  | .staIndy _ => 0x91
  | .stxZp _ => 0x86
  | .stxZpy _ => 0x96
  | .stxAbs _ => 0x8E
  | .styZp _ => 0x84
  | .styZpx _ => 0x94
  | .styAbs _ => 0x8C
  | .tax => 0xAA
  | .tay => 0xA8
  | .txa => 0x8A
  | .tya => 0x98
  | .tsx => 0xBA
  | .txs => 0x9A
  | .pha => 0x48
  | .php => 0x08
  | .pla => 0x68
  | .plp => 0x28
  | .adcImm _ => 0x69
  | .adcZp _ => 0x65
  | .adcZpx _ => 0x75
  | .adcAbs _ => 0x6D
  | .adcAbsx _ => 0x7D
  | .adcAbsy _ => 0x79
  | .adcIndx _ => 0x61
  | .adcIndy _ => 0x71
  | .sbcImm _ => 0xE9
  | .sbcZp _ => 0xE5
  | .sbcZpx _ => 0xF5
  | .sbcAbs _ => 0xED
  | .sbcAbsx _ => 0xFD
  | .sbcAbsy _ => 0xF9
  | .sbcIndx _ => 0xE1
  | .sbcIndy _ => 0xF1
  | .andImm _ => 0x29
  | .andZp _ => 0x25
  | .andZpx _ => 0x35
  | .andAbs _ => 0x2D
  | .andAbsx _ => 0x3D
  | .andAbsy _ => 0x39
  | .andIndx _ => 0x21
  | .andIndy _ => 0x31
  | .oraImm _ => 0x09
  | .oraZp _ => 0x05
  | .oraZpx _ => 0x15
  | .oraAbs _ => 0x0D
  | .oraAbsx _ => 0x1D
  | .oraAbsy _ => 0x19
  | .oraIndx _ => 0x01
  | .oraIndy _ => 0x11
  | .eorImm _ => 0x49
  | .eorZp _ => 0x45
  | .eorZpx _ => 0x55
  | .eorAbs _ => 0x4D
  | .eorAbsx _ => 0x5D
  | .eorAbsy _ => 0x59
  | .eorIndx _ => 0x41
  | .eorIndy _ => 0x51
  | .cmpImm _ => 0xC9
  | .cmpZp _ => 0xC5
  | .cmpZpx _ => 0xD5
  | .cmpAbs _ => 0xCD
  | .cmpAbsx _ => 0xDD
  | .cmpAbsy _ => 0xD9
  | .cmpIndx _ => 0xC1
  | .cmpIndy _ => 0xD1
  | .cpxImm _ => 0xE0
  | .cpxZp _ => 0xE4
  | .cpxAbs _ => 0xEC
  | .cpyImm _ => 0xC0
  | .cpyZp _ => 0xC4
  | .cpyAbs _ => 0xCC
  | .bitZp _ => 0x24
  | .bitAbs _ => 0x2C
  | .incZp _ => 0xE6
  | .incZpx _ => 0xF6
  | .incAbs _ => 0xEE
  | .incAbsx _ => 0xFE
  | .decZp _ => 0xC6
  | .decZpx _ => 0xD6
  | .decAbs _ => 0xCE
  | .decAbsx _ => 0xDE
  | .inx => 0xE8
  | .iny => 0xC8
  | .dex => 0xCA
  | .dey => 0x88
  | .aslAcc => 0x0A
  | .aslZp _ => 0x06
  | .aslZpx _ => 0x16
  | .aslAbs _ => 0x0E
  | .aslAbsx _ => 0x1E
  | .lsrAcc => 0x4A
  | .lsrZp _ => 0x46
  | .lsrZpx _ => 0x56
  | .lsrAbs _ => 0x4E
  | .lsrAbsx _ => 0x5E
  | .rolAcc => 0x2A
  | .rolZp _ => 0x26
  | .rolZpx _ => 0x36
  | .rolAbs _ => 0x2E
  | .rolAbsx _ => 0x3E
  | .rorAcc => 0x6A
  | .rorZp _ => 0x66
  | .rorZpx _ => 0x76
  | .rorAbs _ => 0x6E
  | .rorAbsx _ => 0x7E
  | .jmpAbs _ => 0x4C
  | .jmpInd _ => 0x6C
  | .jsr _ => 0x20
  | .rts => 0x60
  | .rti => 0x40
  | .bcc _ => 0x90
  | .bcs _ => 0xB0
  | .beq _ => 0xF0
  | .bne _ => 0xD0
  | .bmi _ => 0x30
  | .bpl _ => 0x10
  | .bvc _ => 0x50
  | .bvs _ => 0x70
  | .clc => 0x18
  | .sec => 0x38
  | .cli => 0x58
  | .sei => 0x78
  | .cld => 0xD8
  | .sed => 0xF8
  | .clv => 0xB8
  | .nop => 0xEA
  | .brk => 0x00

/-- The operand bytes of an operand, low byte first (R90, R92). -/
def Operand.bytes : Operand → List Byte
  | .imp | .acc => []
  | .imm b | .zp b | .zpx b | .zpy b | .indx b | .indy b | .rel b => [b]
  | .abs w | .absx w | .absy w | .ind w => [lowByte w, highByte w]

/-- The encoder: the opcode byte and then the operand bytes (R90). -/
def encode (i : Instr) : List Byte :=
  i.opcode :: i.operand.bytes

/-- The base clocks of an instruction: the column of R95 in the row of its opcode. -/
def Instr.baseClocks (i : Instr) : Nat :=
  match findRow i.opcode with
  | some r => r.clocks
  | none => 0

/-- Whether a page crossing costs the instruction one clock: the column of R95 in the row of its opcode (R233). -/
def Instr.pageCross (i : Instr) : Bool :=
  match findRow i.opcode with
  | some r => r.pageCross
  | none => false

/-- The three bytes of an instruction whose bits are `w`, numbered as spec/opcode_table.json numbers them (the first byte
is bits 7..0), with every bit above `nbits` zero. -/
def tableBytes (nbits w : Nat) : Byte × Byte × Byte :=
  let v := w % 2 ^ nbits
  (BitVec.ofNat 8 v, BitVec.ofNat 8 (v / 2 ^ 8), BitVec.ofNat 8 (v / 2 ^ 16))

/-- The instruction that the decoder reads from the instruction whose bits are `w` (fixed name). -/
def decodeTableWord (nbits w : Nat) : Option Instr :=
  let b := tableBytes nbits w
  match decode [b.1, b.2.1, b.2.2] with
  | .ok (i, _) => some i
  | .error _ => none

end Sys2Proof
end

