-- ==== Sys2Proof/Config.lean ====
section
/-! DEFINITION. The parameters of the block (00_scope.md R7) as ONE record of plain data, and the free values. A machine
state carries its record (Machine/State.lean), so a claim about every state is a claim about every value of every
parameter. The defaults of R7's table stand in Machine/Defaults.lean. -/

namespace Sys2Proof

/-- P_V_MODE: the overflow formula of ADC and SBC (R170). -/
inductive OverflowMode where
  | literal
  | textbook
  deriving DecidableEq, Repr

/-- P_SBC_V_OPERAND: the operand of the literal overflow formula in SBC (R170). -/
inductive SbcOverflowOperand where
  | m
  | notM
  deriving DecidableEq, Repr

/-- P_DECIMAL: ADC and SBC with D = 1 (R171). -/
inductive DecimalMode where
  | binary
  | fault
  deriving DecidableEq, Repr

/-- P_BRK: opcode 0x00 (R225). -/
inductive BrkMode where
  | fault
  | standard
  deriving DecidableEq, Repr

/-- P_BRANCH_TIMING: the extra clocks of a taken branch (R232). -/
inductive BranchTiming where
  | standard
  | flat
  deriving DecidableEq, Repr

/-- P_JMP_IND_WRAP: where JMP (ind) reads the high byte of its pointer (R118). -/
inductive JmpIndWrap where
  | linear
  | pageWrap
  deriving DecidableEq, Repr

/-- P_UNMAPPED_WRITE: a write that no decode rule claims (R57). -/
inductive UnmappedWriteMode where
  | ignore
  | fault
  deriving DecidableEq, Repr

/-- P_BANK_OOR: a read of a page index beyond the image (R55). -/
inductive BankOutOfRangeMode where
  | zero
  | fault
  deriving DecidableEq, Repr

/-- P_FS_RESET: the frame accumulator after a step fires (R261). -/
inductive FrameReset where
  | zero
  | carry
  deriving DecidableEq, Repr

/-- The configuration record (R7), one field per row of the table, in its order. -/
structure Config where
  /-- P_CPU_HZ: processor clocks per second. -/
  cpuHz : Rat
  /-- P_RAM_SIZE: bytes of RAM. -/
  ramSize : Nat
  /-- P_BANK_BASE: first of the eight bank-select addresses. -/
  bankBase : Nat
  /-- P_SENTINEL_INIT (OPEN): PC after the RTS that ends the init routine. -/
  sentinelInit : Word
  /-- P_SENTINEL_PLAY (OPEN): PC after the RTS that ends the play routine. -/
  sentinelPlay : Word
  /-- P_PLAY_PERIOD: processor clocks between play calls. -/
  playPeriod : Nat
  /-- P_HALT_COST: the cost of one ExecuteOne while halted. -/
  haltCost : Nat
  vMode : OverflowMode
  sbcVOperand : SbcOverflowOperand
  decimal : DecimalMode
  brk : BrkMode
  branchTiming : BranchTiming
  jmpIndWrap : JmpIndWrap
  unmappedWrite : UnmappedWriteMode
  bankOor : BankOutOfRangeMode
  /-- P_DUTY: the pulse waveforms, by duty and step (R280). -/
  duty : Vector (Vector Nat 8) 4
  /-- P_LENGTH: the length-counter table (R255). -/
  lengthTable : Vector Nat 32
  /-- P_NOISE_PERIOD: noise periods in processor clocks (R295). -/
  noisePeriod : Vector Nat 16
  /-- P_DMC_RATE: DMC rates in processor clocks (R305). -/
  dmcRate : Vector Nat 16
  /-- P_DMC_STALL: extra clocks per DMC byte fetch (R307). -/
  dmcStall : Nat
  /-- P_FS_T4: thresholds of the 4-step sequence (R260). -/
  fsT4 : Vector Nat 4
  /-- P_FS_T5: thresholds of the 5-step sequence (R260). -/
  fsT5 : Vector Nat 5
  fsReset : FrameReset
  /-- P_SWEEP_LIMIT: a sweep target above this mutes (R271). -/
  sweepLimit : Nat
  /-- P_PULSE_MIN_PERIOD: the pulse silence threshold (R281). -/
  pulseMinPeriod : Nat
  /-- P_TRI_MIN_PERIOD: the triangle silence threshold (R291). -/
  triMinPeriod : Nat
  /-- P_W_PULSE, P_W_TRI, P_W_NOISE, P_W_DMC: the mixer weights (R330). -/
  wPulse : Rat
  wTri : Rat
  wNoise : Rat
  wDmc : Rat
  /-- P_CHIP_SCALE (OPEN): the attenuation constant of expansion chip k (R331) at index k; a chip with no entry has the
  free value `Config.openChipScale` (log entry 4). -/
  chipScale : List Rat
  /-- P_APU_RESET_4015: the channel-enable value a song start writes (R400). -/
  apuReset4015 : Byte
  deriving DecidableEq, Repr

/-- The amplitude X of the expansion chip set (R331), which the spec leaves undefined: a free value of the image's
expansion bitmask and of the play driver's clock. No run reads it, because a launch image that declares a chip
is refused (R77). -/
opaque Config.expansionAmplitude : Byte → Nat → Rat

/-- The constant P_CHIP_SCALE[k] of a chip k for which the record gives none: OPEN in the spec (R7), so a free value of k
(DESIGN CHOICE, safe, log entry 4). No run reads it. -/
opaque Config.openChipScale : Nat → Rat

end Sys2Proof
end

