-- ==== Sys2Proof/Machine/Defaults.lean ====
section
/-! DEFINITION. The default configuration record: the default column of R7's table, with the contents of the tables that
R280, R255, R295 and R305 give. The two OPEN sentinels take the example values of 95_test_vectors.md (DESIGN CHOICE, log
entry 3); no claim rests on them. -/

namespace Sys2Proof

/-- The default record: R7's table, with the table contents of R280, R255, R295 and R305. The sentinels are OPEN in
the spec (DESIGN CHOICE, log entry 3) and P_CHIP_SCALE is OPEN and unused (log entry 4). -/
def Config.default : Config where
  cpuHz := 1789773
  ramSize := 0x800
  bankBase := 0x5FF8
  sentinelInit := 0x5000
  sentinelPlay := 0x5004
  playPeriod := 29830
  haltCost := 1
  vMode := .literal
  sbcVOperand := .m
  decimal := .binary
  brk := .fault
  branchTiming := .standard
  jmpIndWrap := .linear
  unmappedWrite := .ignore
  bankOor := .zero
  duty := #v[
    #v[0, 1, 0, 0, 0, 0, 0, 0],
    #v[0, 1, 1, 0, 0, 0, 0, 0],
    #v[0, 1, 1, 1, 1, 0, 0, 0],
    #v[1, 0, 0, 1, 1, 1, 1, 1]]
  lengthTable := #v[
    10, 254, 20, 2, 40, 4, 80, 6, 160, 8, 60, 10, 14, 12, 26, 14,
    12, 16, 24, 18, 48, 20, 96, 22, 192, 24, 72, 26, 16, 28, 32, 30]
  noisePeriod := #v[4, 8, 16, 32, 64, 96, 128, 160, 202, 254, 380, 508, 762, 1016, 2034, 4068]
  dmcRate := #v[428, 380, 340, 320, 286, 254, 226, 214, 190, 160, 142, 128, 106, 84, 72, 54]
  dmcStall := 4
  fsT4 := #v[7457, 7456, 7458, 7457]
  fsT5 := #v[7457, 7456, 7458, 7458, 7452]
  fsReset := .zero
  sweepLimit := 4095
  pulseMinPeriod := 8
  triMinPeriod := 2
  wPulse := 752 / 100000
  wTri := 851 / 100000
  wNoise := 494 / 100000
  wDmc := 670 / 100000
  chipScale := []
  apuReset4015 := 0x0F

end Sys2Proof
end

