-- ==== Sys2Proof/Machine/State.lean ====
section
/-! DEFINITION. The state of the block as plain data (10_state.md), the reasons a step can stop, and the state after
reset. Every field of R20 to R36 is here; beside them stand the two things that R37 calls fixed during a run (the
configuration and the loaded image), because a step reads them, and the model's own mark that a song has been started
(log entries 1, 2 and 5). -/

namespace Sys2Proof.Machine

/-- The core faults of the block (R370), with the values each records. -/
inductive CoreFault where
  /-- Code 1 (R371). Raised by the opcode fetch of ExecuteOne on one of the 105 opcodes of R96, and by BRK under
  P_BRK = Fault (R225). Safe: the spec's own stop. -/
  | unsupportedOpcode (pc : Word) (op : Byte)
  /-- Code 2 (R372). Raised by ADC and SBC with D = 1 under P_DECIMAL = Fault. Safe: the spec's own stop. -/
  | decimalUnsupported (pc : Word)
  /-- Code 3 (R373). Raised by any read at or above 0x8000 whose window selects a page beyond the image, under
  P_BANK_OOR = Fault. Safe: the spec's own stop. -/
  | bankOutOfRange (addr : Word) (page : Nat)
  /-- Code 4 (R375). Raised by any write that no line of R57 claims, under P_UNMAPPED_WRITE = Fault. Safe: the
  spec's own stop. -/
  | unmappedWrite (addr : Word) (v : Byte)
  deriving DecidableEq, Repr

/-- The status flags (R23). U is no field: it reads as 1 at all times and nothing clears it (R25), see `Flags.u`. -/
structure Flags where
  n : Bool
  v : Bool
  b : Bool
  d : Bool
  i : Bool
  z : Bool
  c : Bool
  deriving DecidableEq, Repr

/-- The volume and envelope fields of a pulse or noise channel (R35): halt, const, vol, env_start, env_div and
env_decay. -/
structure Envelope where
  /-- length halt, which is also the envelope loop -/
  halt : Bool
  /-- the constant-volume flag -/
  constVol : Bool
  /-- the volume, which is also the envelope period -/
  vol : BitVec 4
  start : Bool
  div : BitVec 4
  decay : BitVec 4
  deriving DecidableEq, Repr

/-- The sweep fields of a pulse channel (R35). -/
structure Sweep where
  en : Bool
  neg : Bool
  reload : Bool
  mute : Bool
  period : BitVec 3
  shift : BitVec 3
  div : BitVec 3
  deriving DecidableEq, Repr

/-- A pulse channel (R35). -/
structure Pulse where
  duty : BitVec 2
  env : Envelope
  sweep : Sweep
  period : BitVec 12
  timer : Nat
  step : BitVec 3
  length : Nat
  enabled : Bool
  deriving DecidableEq, Repr

/-- The triangle channel (R35). -/
structure Triangle where
  control : Bool
  linReloadValue : BitVec 7
  lin : BitVec 7
  linReloadFlag : Bool
  period : BitVec 11
  timer : BitVec 11
  step : BitVec 5
  length : Nat
  enabled : Bool
  deriving DecidableEq, Repr

/-- The noise channel (R35). -/
structure Noise where
  env : Envelope
  mode : Bool
  periodIndex : BitVec 4
  timer : Nat
  lfsr : BitVec 15
  length : Nat
  enabled : Bool
  deriving DecidableEq, Repr

/-- The delta-modulation channel (R35). -/
structure Dmc where
  irqEn : Bool
  loop : Bool
  rateIndex : BitVec 4
  level : Nat
  addrReg : Byte
  lenReg : Byte
  curAddr : Word
  bytesRemaining : Nat
  shift : Byte
  bitsLeft : Nat
  timer : Nat
  enabled : Bool
  stallPending : Nat
  deriving DecidableEq, Repr

/-- fs_mode: the 4-step or the 5-step sequence (R260). -/
inductive FrameMode where
  | four
  | five
  deriving DecidableEq, Repr

/-- The frame sequencer (R35, R260). -/
structure FrameSeq where
  mode : FrameMode
  step : Nat
  acc : Nat
  deriving DecidableEq, Repr

/-- The APU (R35). -/
structure Apu where
  pulse1 : Pulse
  pulse2 : Pulse
  triangle : Triangle
  noise : Noise
  dmc : Dmc
  seq : FrameSeq
  deriving DecidableEq, Repr

/-- Sparse bytes: the cells that differ from 0x00, in strictly rising order of their index (`Memory.wf`, in
Machine/Ops.lean). An index that is not listed reads as 0x00: the song start zeroes RAM (R33, R400) and the image is
zero-padded outside its data (R73). -/
abbrev Memory := List Host.Cell

/-- A loaded image (R34, R37, R71): the header fields the block reads, and its pages. Page p, offset k is index
4096·p + k of `rom`; there are `pageCount` pages. -/
structure Image where
  songCount : Byte
  startingSong : Byte
  loadAddr : Word
  initAddr : Word
  playAddr : Word
  name : List Byte
  artist : List Byte
  copyright : List Byte
  overrides : Vector Byte 8
  expansion : Byte
  pageCount : Nat
  rom : Memory
  deriving DecidableEq, Repr

/-- The state of the machine. -/
structure State where
  /-- accumulator (R20) -/
  a : Byte
  /-- index X (R20) -/
  x : Byte
  /-- index Y (R20) -/
  y : Byte
  /-- stack pointer S (R21) -/
  sp : Byte
  /-- program counter (R22) -/
  pc : Word
  /-- status flags (R23) -/
  flags : Flags
  /-- clock-cost counter (R28) -/
  cost : Nat
  /-- the halted / do-nothing flag (R29) -/
  halted : Bool
  /-- the fault flag (R30) -/
  fault : Option CoreFault
  /-- RAM (R33) -/
  ram : Memory
  /-- the page-select table (R34) -/
  select : Vector Nat 8
  /-- the APU (R35) -/
  apu : Apu
  /-- the sample clock's debt (R36, R340) -/
  debt : Rat
  /-- clocks since the last play-period boundary (R36, R345) -/
  frameClock : Nat
  /-- the host's play flag (R36, R348) -/
  playing : Bool
  /-- the song index the host can query (R36, R347) -/
  currentSong : Nat
  /-- the configuration record (R7, R37); no step changes it (log entry 1) -/
  cfg : Config
  /-- the loaded image, if any (R37, R75); no step changes it (log entry 2) -/
  image : Option Image
  /-- the model's own: a song has been started since the last load or configuration, so a run exists (R346, R404; log
  entry 5) -/
  started : Bool
  deriving DecidableEq, Repr

/-- The fault a step ends in: the core fault, and the state in which it leaves the machine (R374), whose fault flag is
set to it (DESIGN CHOICE, safe, log entry 8). -/
inductive Fault where
  /-- Raised by `State.raise` at the faulting access, and by every later step of the stopped machine. Safe: the spec's
  own stop (R370, R374). -/
  | core (f : CoreFault) (stopped : State)
  deriving DecidableEq, Repr

/-- Why the model gives a step or a host operation no meaning (R12, R381). -/
inductive Refusal where
  /-- An arm of `exec` that has no meaning yet. Safe. No arm of this package raises it. -/
  | notModelled (mnemonic : String)
  /-- A step or a sample request before StartSong (R346, R404): no processor state is defined. Safe. -/
  | noSongStarted
  /-- StartSong with no image loaded (R347, R381). Safe. -/
  | noImage
  /-- NextSample with a rate that is not a positive integer (R341, R381). Safe. -/
  | rateNotPositiveInteger
  /-- A configuration that breaks R8 (R8, R381). Safe. -/
  | configIllFormed
  /-- Load of a file shorter than the 0x80 bytes of a header (R76). Safe. -/
  | imageTooShort
  /-- Load of an image that is not banked and has load_addr < 0x8000 (R76). Safe. -/
  | imageBelowWindows
  /-- Load of an image with song_count = 0 (R76). Safe. -/
  | imageNoSongs
  /-- Load of an image that declares an expansion chip (R77). Safe. -/
  | imageExpansion
  deriving DecidableEq, Repr

/-- The flags after a song start (R23, R400): I set, every other flag clear. -/
def Flags.reset : Flags :=
  ⟨false, false, false, false, true, false, false⟩

/-- Every envelope field 0 (R35). -/
def Envelope.reset : Envelope :=
  ⟨false, false, 0, false, 0, 0⟩

/-- Every sweep field 0 (R35). -/
def Sweep.reset : Sweep :=
  ⟨false, false, false, false, 0, 0, 0⟩

/-- A pulse channel with every field 0 (R35, R400 step 5). -/
def Pulse.reset : Pulse :=
  ⟨0, Envelope.reset, Sweep.reset, 0, 0, 0, 0, false⟩

/-- The triangle with every field 0 (R35, R400 step 5). -/
def Triangle.reset : Triangle :=
  ⟨false, 0, 0, false, 0, 0, 0, 0, false⟩

/-- The noise channel with every field 0 but the shift register, which is 1 (R35, R400 step 5). -/
def Noise.reset : Noise :=
  ⟨Envelope.reset, false, 0, 0, 1, 0, false⟩

/-- The delta-modulation channel with every field 0 (R35, R400 step 5). -/
def Dmc.reset : Dmc :=
  ⟨false, false, 0, 0, 0, 0, 0, 0, 0, 0, 0, false, 0⟩

/-- The frame sequencer in 4-step mode at step 0 (R35, R400 step 5). -/
def FrameSeq.reset : FrameSeq :=
  ⟨.four, 0, 0⟩

/-- The APU before the song start writes 0x4015 (R400 step 5). -/
def Apu.reset : Apu :=
  ⟨Pulse.reset, Pulse.reset, Triangle.reset, Noise.reset, Dmc.reset, FrameSeq.reset⟩

/-- The image of a header alone, with no program data (R72): one page of zeroes (R73). Its three addresses are 0x8000,
the base of the windows (DESIGN CHOICE, log entry 2). -/
def Image.blank : Image where
  songCount := 1
  startingSong := 1
  loadAddr := 0x8000
  initAddr := 0x8000
  playAddr := 0x8000
  name := List.replicate 32 0
  artist := List.replicate 32 0
  copyright := List.replicate 32 0
  overrides := #v[0, 0, 0, 0, 0, 0, 0, 0]
  expansion := 0
  pageCount := 1
  rom := []

/-- The machine right after reset: the song start of R400 on the default configuration and the blank image, song 1. RAM
holds the return address that step 9 pushes, P_SENTINEL_INIT − 1; step 7 has enabled pulse 1, pulse 2, triangle and
noise. That this is what the song start computes is `Obligations.ResetIsSongStart`. -/
def State.reset : State where
  a := 0
  x := 0
  y := 0
  sp := 0xFD
  pc := 0x8000
  flags := Flags.reset
  cost := 0
  halted := false
  fault := none
  ram := [(0x1FE, 0xFF), (0x1FF, 0x4F)]
  select := #v[0, 1, 2, 3, 4, 5, 6, 7]
  apu := { Apu.reset with
    pulse1 := { Pulse.reset with enabled := true }
    pulse2 := { Pulse.reset with enabled := true }
    triangle := { Triangle.reset with enabled := true }
    noise := { Noise.reset with enabled := true } }
  debt := 0
  frameClock := 0
  playing := true
  currentSong := 1
  cfg := Config.default
  image := some Image.blank
  started := true

end Sys2Proof.Machine
end

