-- ==== Sys2Proof/Machine/ApuRegs.lean ====
section
/-! DEFINITION. The APU's register-write interface (R240 to R256): the effect of a write of one byte to each of 0x4000 to
0x4015 and to 0x4017. Every write is total. -/

namespace Sys2Proof.Machine

/-- The bits hi = lo + len − 1 down to lo of a byte, `v[hi:lo]` (R9). -/
def bits (v : Byte) (lo len : Nat) : BitVec len :=
  v.extractLsb' lo len

/-- P_LENGTH at the length index v[7:3] (R255). -/
def lengthLoad (c : Config) (v : Byte) : Nat :=
  c.lengthTable[(bits v 3 5).toNat]'(bits v 3 5).isLt

/-- The fields `halt`, `const` and `vol` of a volume write (R242, R249). -/
def Envelope.writeVolume (v : Byte) (e : Envelope) : Envelope :=
  { e with halt := v.getLsbD 5, constVol := v.getLsbD 4, vol := bits v 0 4 }

/-- Pulse duty/volume write (R242). -/
def Pulse.writeDutyVolume (v : Byte) (p : Pulse) : Pulse :=
  { p with duty := bits v 6 2, env := p.env.writeVolume v }

/-- Pulse sweep write (R243). -/
def Pulse.writeSweep (v : Byte) (p : Pulse) : Pulse :=
  { p with sweep := { p.sweep with
      en := v.getLsbD 7
      period := bits v 4 3
      neg := v.getLsbD 3
      shift := bits v 0 3
      reload := true } }

/-- Pulse timer-low write (R245). -/
def Pulse.writeTimerLow (v : Byte) (p : Pulse) : Pulse :=
  { p with period := (p.period &&& 0xF00) ||| v.setWidth 12 }

/-- Pulse timer-high write (R244). -/
def Pulse.writeTimerHigh (c : Config) (v : Byte) (p : Pulse) : Pulse :=
  { p with
    period := ((bits v 0 3).setWidth 12 <<< 8) ||| (p.period &&& 0x0FF)
    length := lengthLoad c v
    step := 0
    env := { p.env with start := true } }

/-- Triangle linear-counter write (R246). -/
def Triangle.writeLinear (v : Byte) (t : Triangle) : Triangle :=
  { t with control := v.getLsbD 7, linReloadValue := bits v 0 7 }

/-- Triangle timer-low write (R247). -/
def Triangle.writeTimerLow (v : Byte) (t : Triangle) : Triangle :=
  { t with period := (t.period &&& 0x700) ||| v.setWidth 11 }

/-- Triangle timer-high write (R248). -/
def Triangle.writeTimerHigh (c : Config) (v : Byte) (t : Triangle) : Triangle :=
  { t with
    period := ((bits v 0 3).setWidth 11 <<< 8) ||| (t.period &&& 0x0FF)
    length := lengthLoad c v
    linReloadFlag := true }

/-- Noise volume/envelope write (R249). -/
def Noise.writeVolume (v : Byte) (n : Noise) : Noise :=
  { n with env := n.env.writeVolume v }

/-- Noise timer-and-mode write (R251). -/
def Noise.writeMode (v : Byte) (n : Noise) : Noise :=
  { n with mode := v.getLsbD 7, periodIndex := bits v 0 4 }

/-- Noise length write (R252). -/
def Noise.writeLength (c : Config) (v : Byte) (n : Noise) : Noise :=
  { n with length := lengthLoad c v, env := { n.env with start := true } }

/-- DMC flags-and-rate write (R253, 0x4010). -/
def Dmc.writeFlags (v : Byte) (d : Dmc) : Dmc :=
  { d with irqEn := v.getLsbD 7, loop := v.getLsbD 6, rateIndex := bits v 0 4 }

/-- DMC direct load (R253, 0x4011): `v[6:0] >> 1`. -/
def Dmc.writeLevel (v : Byte) (d : Dmc) : Dmc :=
  { d with level := (bits v 0 7).toNat >>> 1 }

/-- `DmcRestart()` (R306). -/
def Dmc.restart (d : Dmc) : Dmc :=
  { d with
    curAddr := 0xC000 + 64 * d.addrReg.setWidth 16
    bytesRemaining := 16 * d.lenReg.toNat + 1 }

/-- A channel's length after a channel-enable write of its bit (R254). -/
def enabledLength (on : Bool) (length : Nat) : Nat :=
  if on then length else 0

/-- The DMC's part of a channel-enable write (R254). -/
def Dmc.writeEnable (on : Bool) (d : Dmc) : Dmc :=
  let d := { d with enabled := on }
  if on then (if d.bytesRemaining = 0 then d.restart else d) else { d with bytesRemaining := 0 }

/-- Channel-enable write (R254, 0x4015). -/
def Apu.writeEnable (v : Byte) (p : Apu) : Apu :=
  { p with
    pulse1 := { p.pulse1 with
      enabled := v.getLsbD 0, length := enabledLength (v.getLsbD 0) p.pulse1.length }
    pulse2 := { p.pulse2 with
      enabled := v.getLsbD 1, length := enabledLength (v.getLsbD 1) p.pulse2.length }
    triangle := { p.triangle with
      enabled := v.getLsbD 2, length := enabledLength (v.getLsbD 2) p.triangle.length }
    noise := { p.noise with
      enabled := v.getLsbD 3, length := enabledLength (v.getLsbD 3) p.noise.length }
    dmc := p.dmc.writeEnable (v.getLsbD 4) }

/-- `ApuWrite(a, v)` for 0x4000 ≤ a ≤ 0x4015 (R241). The last line is 0x4009, 0x400D and 0x4014, which change nothing
(R256). -/
def apuWrite (c : Config) (a : Word) (v : Byte) (p : Apu) : Apu :=
  if a = 0x4000 then { p with pulse1 := p.pulse1.writeDutyVolume v }
  else if a = 0x4001 then { p with pulse1 := p.pulse1.writeSweep v }
  else if a = 0x4002 then { p with pulse1 := p.pulse1.writeTimerLow v }
  else if a = 0x4003 then { p with pulse1 := p.pulse1.writeTimerHigh c v }
  else if a = 0x4004 then { p with pulse2 := p.pulse2.writeDutyVolume v }
  else if a = 0x4005 then { p with pulse2 := p.pulse2.writeSweep v }
  else if a = 0x4006 then { p with pulse2 := p.pulse2.writeTimerLow v }
  else if a = 0x4007 then { p with pulse2 := p.pulse2.writeTimerHigh c v }
  else if a = 0x4008 then { p with triangle := p.triangle.writeLinear v }
  else if a = 0x400A then { p with triangle := p.triangle.writeTimerLow v }
  else if a = 0x400B then { p with triangle := p.triangle.writeTimerHigh c v }
  else if a = 0x400C then { p with noise := p.noise.writeVolume v }
  else if a = 0x400E then { p with noise := p.noise.writeMode v }
  else if a = 0x400F then { p with noise := p.noise.writeLength c v }
  else if a = 0x4010 then { p with dmc := p.dmc.writeFlags v }
  else if a = 0x4011 then { p with dmc := p.dmc.writeLevel v }
  else if a = 0x4012 then { p with dmc := { p.dmc with addrReg := v } }
  else if a = 0x4013 then { p with dmc := { p.dmc with lenReg := v } }
  else if a = 0x4015 then p.writeEnable v
  else p

/-- `FrameModeWrite(v)` (R250, 0x4017). -/
def frameModeWrite (v : Byte) (p : Apu) : Apu :=
  { p with seq := { mode := if v.getLsbD 7 then .five else .four, step := 0, acc := 0 } }

end Sys2Proof.Machine
end

