-- ==== Sys2Proof/Machine/Flags.lean ====
section
/-! DEFINITION. Flag computations: packing and unpacking P (R24), setNZ (R10), the overflow functions (R170), carry of
add and subtract (R160, R161), and the flags of a compare and of a bit test (R165 to R168). -/

namespace Sys2Proof.Machine

/-- U reads as 1 at all times (R25). -/
def Flags.u (_ : Flags) : Bool :=
  true

/-- The packed byte P (R24): `N V U B D I Z C` from bit 7 to bit 0. -/
def Flags.pack (f : Flags) : Byte :=
  BitVec.ofBool f.n ++ BitVec.ofBool f.v ++ BitVec.ofBool f.u ++ BitVec.ofBool f.b ++ BitVec.ofBool f.d ++
    BitVec.ofBool f.i ++ BitVec.ofBool f.z ++ BitVec.ofBool f.c

/-- The byte that PHP and BRK push: `P | 0x30` (R151, R225). -/
def Flags.pushed (f : Flags) : Byte :=
  f.pack ||| 0x30

/-- The flags that PLP and RTI load from a pulled byte; bit 5 is ignored (R24, R153, R203). -/
def Flags.unpack (v : Byte) : Flags where
  n := v.getLsbD 7
  v := v.getLsbD 6
  b := v.getLsbD 4
  d := v.getLsbD 3
  i := v.getLsbD 2
  z := v.getLsbD 1
  c := v.getLsbD 0

/-- `setNZ(v)` (R10). -/
def Flags.setNZ (f : Flags) (v : Byte) : Flags :=
  { f with n := v.getLsbD 7, z := v == 0 }

/-- The literal overflow formula: operand and result agree in bit 7 (R170). -/
def literalOverflow (operand r : Byte) : Bool :=
  operand &&& 0x80 == r &&& 0x80

/-- `Vadd(A, M, R)` (R170). -/
def overflowAdd (mode : OverflowMode) (a m r : Byte) : Bool :=
  match mode with
  | .literal => literalOverflow m r
  | .textbook => ~~~(a ^^^ m) &&& (a ^^^ r) &&& 0x80 != 0

/-- `Vsub(A, M, R)` (R170). -/
def overflowSub (mode : OverflowMode) (operand : SbcOverflowOperand) (a m r : Byte) : Bool :=
  match mode, operand with
  | .literal, .m => literalOverflow m r
  | .literal, .notM => literalOverflow (~~~m) r
  | .textbook, _ => (a ^^^ m) &&& (a ^^^ r) &&& 0x80 != 0

/-- The exact sum `A + M + C` of ADC, 0 to 511 (R160). -/
def exactSum (a m : Byte) (c : Bool) : Nat :=
  a.toNat + m.toNat + c.toNat

/-- The exact difference `A - M - (1 - C)` of SBC, −256 to 255 (R161). -/
def exactDifference (a m : Byte) (c : Bool) : Int :=
  (a.toNat : Int) - m.toNat - (1 - c.toNat)

/-- The flags of a compare of register `r` with `m` (R165 to R167). -/
def Flags.compare (f : Flags) (r m : Byte) : Flags :=
  { f with c := decide (m ≤ r), z := r == m, n := (r - m).getLsbD 7 }

/-- The flags of BIT (R168): N and V come from M, Z from A & M. -/
def Flags.bitTest (f : Flags) (a m : Byte) : Flags :=
  { f with z := a &&& m == 0, n := m.getLsbD 7, v := m.getLsbD 6 }

end Sys2Proof.Machine
end

