-- ==== Sys2Proof/Machine/Ops.lean ====
section
/-! DEFINITION. The named operations over memory and registers: sparse bytes, the read and write decode of the address
space (R55, R57), the stack (R27), raising a fault (R374), the trap entry of BRK and the return beside it (R378,
R379), and what every completed instruction does with the program counter and the clock cost (R22, R230). -/

namespace Sys2Proof.Machine

/-- The outcome of a step of this machine. -/
abbrev Result := Host.Outcome State Fault Refusal

/-! ### Sparse bytes -/

/-- The canonical form: indexes strictly rising, and no cell that equals what an unlisted index reads as. -/
abbrev Memory.wf (m : Memory) : Prop :=
  m.Pairwise (fun p q => p.1 < q.1) ∧ ∀ p ∈ m, p.2 ≠ 0

/-- What an unlisted index reads as: RAM is zeroed by the song start (R400), the image is zero-padded (R73). -/
def Memory.unlisted : Byte :=
  0

/-- The byte at index `k`. -/
def Memory.read : Memory → Nat → Byte
  | [], _ => Memory.unlisted
  | (j, b) :: m, k => if k = j then b else Memory.read m k

/-- The memory with byte `v` at index `k`, in canonical form. -/
def Memory.write : Memory → Nat → Byte → Memory
  | [], k, v => if v = Memory.unlisted then [] else [(k, v)]
  | (j, b) :: m, k, v =>
    if k < j then (if v = Memory.unlisted then (j, b) :: m else (k, v) :: (j, b) :: m)
    else if k = j then (if v = Memory.unlisted then m else (k, v) :: m)
    else (j, b) :: Memory.write m k v

/-! ### The image -/

/-- length(pages): 0 with no image loaded (R34). -/
def State.pageCount (s : State) : Nat :=
  match s.image with
  | some im => im.pageCount
  | none => 0

/-- The size of a page (R6). -/
def pageSize : Nat :=
  4096

/-- `pages[pg][off]` (R34, R55). -/
def State.pageByte (s : State) (pg off : Nat) : Byte :=
  match s.image with
  | some im => im.rom.read (pageSize * pg + off)
  | none => 0

/-- The init routine's address (R71, R401). -/
def State.initAddr (s : State) : Word :=
  match s.image with
  | some im => im.initAddr
  | none => 0

/-- The play routine's address (R71, R401). -/
def State.playAddr (s : State) : Word :=
  match s.image with
  | some im => im.playAddr
  | none => 0

/-! ### The address space -/

/-- `RAM[a mod P_RAM_SIZE]` (R55, R57). -/
def State.ramRead (s : State) (a : Word) : Byte :=
  s.ram.read (a.toNat % s.cfg.ramSize)

/-- `RAM[a mod P_RAM_SIZE] <- v` (R57). -/
def State.ramWrite (a : Word) (v : Byte) (s : State) : State :=
  { s with ram := s.ram.write (a.toNat % s.cfg.ramSize) v }

/-- The window index `a[14:12]` (R54). -/
def windowOf (a : Word) : BitVec 3 :=
  a.extractLsb' 12 3

/-- The page that the window of `a` shows (R34, R54). -/
def State.pageOf (s : State) (a : Word) : Nat :=
  s.select[(windowOf a).toNat]'(windowOf a).isLt

/-- `MemRead(a, 1)`, the read decode (R55). A read changes no state (R56). -/
def State.memRead (s : State) (a : Word) : Except CoreFault Byte :=
  if a < 0x8000 then .ok (s.ramRead a)
  else if s.pageOf a < s.pageCount then .ok (s.pageByte (s.pageOf a) (a.extractLsb' 0 12).toNat)
  else
    match s.cfg.bankOor with
    | .zero => .ok 0
    | .fault => .error (.bankOutOfRange a (s.pageOf a))

/-- `MemRead(a, 2)`, little-endian, each byte decoded on its own, the second address wrapping (R52, R53). -/
def State.memRead2 (s : State) (a : Word) : Except CoreFault Word :=
  match s.memRead a with
  | .error f => .error f
  | .ok lo =>
    match s.memRead (a + 1) with
    | .error f => .error f
    | .ok hi => .ok (wordOf lo hi)

/-- `BankWrite(i, v)` (R58). -/
def State.bankWrite (i : Nat) (v : Byte) (s : State) : State :=
  { s with select := s.select.setIfInBounds i v.toNat }

/-- Whether `a` is one of the bank-select addresses (R57). -/
def State.isBankAddr (s : State) (a : Word) : Bool :=
  decide (s.cfg.bankBase ≤ a.toNat) && decide (a.toNat ≤ s.cfg.bankBase + 7)

/-- `MemWrite(a, 1, v)`, the write decode, its lines tested in R57's order. -/
def State.memWrite (a : Word) (v : Byte) (s : State) : Except CoreFault State :=
  if a < 0x2000 then .ok (s.ramWrite a v)
  else if 0x4000 ≤ a ∧ a ≤ 0x4015 then .ok { s with apu := apuWrite s.cfg a v s.apu }
  else if a = 0x4017 then .ok { s with apu := frameModeWrite v s.apu }
  else if s.isBankAddr a then .ok (s.bankWrite (a.toNat - s.cfg.bankBase) v)
  else
    match s.cfg.unmappedWrite with
    | .ignore => .ok s
    | .fault => .error (.unmappedWrite a v)

/-! ### The stack (R27) -/

/-- The stack address of S: `0x0100 + S` (R21). -/
def stackAddr (sp : Byte) : Word :=
  0x0100 + sp.setWidth 16

/-- `push(v)` (R27). Its address is below 0x2000, so the write decode takes it to RAM (`memWrite_stackAddr`). -/
def State.push (v : Byte) (s : State) : State :=
  { s.ramWrite (stackAddr s.sp) v with sp := s.sp - 1 }

/-- The byte that `pull()` returns (R27). Its address is below 0x8000, so the read decode takes it from RAM
(`memRead_stackAddr`). -/
def State.top (s : State) : Byte :=
  s.ramRead (stackAddr (s.sp + 1))

/-- `pull()`'s effect on S (R27). -/
def State.pop (s : State) : State :=
  { s with sp := s.sp + 1 }

/-- `push16(w)`: the high byte first (R27). -/
def State.push16 (w : Word) (s : State) : State :=
  (s.push (highByte w)).push (lowByte w)

/-- The word that `pull16()` returns: the low byte first (R27). -/
def State.top16 (s : State) : Word :=
  wordOf s.top s.pop.top

/-! ### Completion -/

/-- `take_stall()` and the clock cost of a completed ExecuteOne (R230, R231): the clocks of the instruction plus the
pending DMC stall, which it clears. -/
def State.charge (clocks : Nat) (s : State) : State :=
  { s with
    cost := clocks + s.apu.dmc.stallPending
    apu := { s.apu with dmc := { s.apu.dmc with stallPending := 0 } } }

/-- `PC <- PCn` (R22, R110). -/
def State.advance (len : Nat) (s : State) : State :=
  { s with pc := s.pc + BitVec.ofNat 16 len }

/-! ### Exceptions: the fault, the trap of BRK, and the return (R374, R378, R379) -/

/-- Raising a core fault: the step stops here, with the fault flag set and everything else as it stands (R374). -/
def State.raise (f : CoreFault) (s : State) : Result :=
  .fault (.core f { s with fault := some f })

/-- The trap's frame (R225): push `(PC + 2) & 0xFFFF` high byte first, push `P | 0x30`, set B and I. -/
def State.trapFrame (s : State) : State :=
  { (s.push16 (s.pc + 2)).push s.flags.pushed with flags := { s.flags with b := true, i := true } }

/-- The only vectored transfer of control, BRK under P_BRK = Standard (R225, R378): the frame, then the jump to the word
read at 0xFFFE. It completes, or it faults at the vector read with the frame done. -/
def State.trap (clocks : Nat) (s : State) : Result :=
  match s.trapFrame.memRead2 0xFFFE with
  | .error f => s.trapFrame.raise f
  | .ok target => .next ({ s.trapFrame with pc := target }.charge clocks)

/-- The return from a trap, RTI (R203, R379): pull the flags, then pull PC, with no +1. -/
def State.returnFromTrap (clocks : Nat) (s : State) : Result :=
  let t := { s.pop with flags := Flags.unpack s.top }
  .next ({ t.pop.pop with pc := t.top16 }.charge clocks)

end Sys2Proof.Machine
end

