-- ==== Sys2Proof/Machine/Operands.lean ====
section
/-! DEFINITION. Addressing modes and operand access (40_addressing.md): the shared address-resolution routine of R110 to
R124, keyed by the operand; the pointer of JMP (ind) (R118); the branch target (R123); and the three operand access
classes of R125. -/

namespace Sys2Proof.Machine

/-- A location (40_addressing.md, R125). -/
inductive Loc where
  | none
  | acc
  | imm (v : Byte)
  | mem (ea : Word)
  deriving DecidableEq, Repr

/-- A resolved operand: its location and its page-cross flag (R124). -/
structure Resolved where
  loc : Loc
  cross : Bool
  deriving DecidableEq, Repr

/-- `a[15:8] != b[15:8]`: two addresses lie in different 256-byte pages (R120 to R124). -/
def pagesDiffer (a b : Word) : Bool :=
  highByte a != highByte b

/-- A zero-page address (R92, R114). -/
def zeroPage (z : Byte) : Word :=
  z.setWidth 16

/-- The word that a zero-page pointer holds: both bytes in page zero, the high byte's address wrapping from 0x00FF to
0x0000 (R119, R120). Page zero is RAM (R55), so the read decode never faults here (`memRead_zeroPage`). -/
def State.pointer (s : State) (z : Byte) : Word :=
  wordOf (s.ramRead (zeroPage z)) (s.ramRead (zeroPage (z + 1)))

/-- An indexed address with its page-cross flag (R120 to R122). -/
def indexed (base : Word) (index : Byte) : Resolved :=
  let ea := base + index.setWidth 16
  ⟨.mem ea, pagesDiffer base ea⟩

/-- The address-resolution routine (R111 to R124). IMP, IND and REL have no location; the targets of IND and REL are
`State.indirectTarget` and `branchTarget`. -/
def State.resolve (s : State) : Operand → Resolved
  | .imp => ⟨.none, false⟩
  | .acc => ⟨.acc, false⟩
  | .imm v => ⟨.imm v, false⟩
  | .zp z => ⟨.mem (zeroPage z), false⟩
  | .zpx z => ⟨.mem (zeroPage (z + s.x)), false⟩
  | .zpy z => ⟨.mem (zeroPage (z + s.y)), false⟩
  | .abs w => ⟨.mem w, false⟩
  | .absx w => indexed w s.x
  | .absy w => indexed w s.y
  | .ind _ => ⟨.none, false⟩
  | .indx z => ⟨.mem (s.pointer (z + s.x)), false⟩
  | .indy z => indexed (s.pointer z) s.y
  | .rel _ => ⟨.none, false⟩

/-- The address of the high byte of a JMP (ind) pointer (R118). -/
def indirectHigh (mode : JmpIndWrap) (ptr : Word) : Word :=
  match mode with
  | .linear => ptr + 1
  | .pageWrap => (ptr &&& 0xFF00) ||| ((ptr + 1) &&& 0x00FF)

/-- The target of JMP (ind) (R118). -/
def State.indirectTarget (s : State) (ptr : Word) : Except CoreFault Word :=
  match s.memRead ptr with
  | .error f => .error f
  | .ok lo =>
    match s.memRead (indirectHigh s.cfg.jmpIndWrap ptr) with
    | .error f => .error f
    | .ok hi => .ok (wordOf lo hi)

/-- The address after a branch, PCn = PC + 2 (R123). -/
def branchNext (pc : Word) : Word :=
  pc + 2

/-- The target of a branch (R123). -/
def branchTarget (pc : Word) (r : Byte) : Word :=
  branchNext pc + r.signExtend 16

/-- The page-cross flag of a branch (R123). -/
def branchCross (pc : Word) (r : Byte) : Bool :=
  pagesDiffer (branchNext pc) (branchTarget pc r)

/-- `Read(loc)` (R125). No instruction of the read classes has a location `none`; its arm reads nothing. -/
def State.readLoc (s : State) : Loc → Except CoreFault Byte
  | .none => .ok 0
  | .acc => .ok s.a
  | .imm v => .ok v
  | .mem ea => s.memRead ea

/-- `Write(loc, r)` (R125). No instruction writes an immediate or no location; those arms write nothing. -/
def State.writeLoc (l : Loc) (r : Byte) (s : State) : Except CoreFault State :=
  match l with
  | .none => .ok s
  | .acc => .ok { s with a := r }
  | .imm _ => .ok s
  | .mem ea => s.memWrite ea r

/-- The operand M of a read-class instruction (R125). -/
def State.readOperand (s : State) (o : Operand) : Except CoreFault Byte :=
  s.readLoc (s.resolve o).loc

/-- The extra clock of a page crossing (R233), for a descriptor whose page-cross flag is `flag`. -/
def State.crossClock (s : State) (o : Operand) (flag : Bool) : Nat :=
  if flag && (s.resolve o).cross then 1 else 0

/-- The end of an instruction that does not write PC itself (R22, R230). -/
def State.finish (o : Operand) (clocks : Nat) (t : State) : Result :=
  .next ((t.advance o.length).charge clocks)

/-- A read-class instruction (R125): read M, apply its effect, complete. -/
def State.readClass (o : Operand) (base : Nat) (flag : Bool) (effect : Byte → State → State) (s : State) : Result :=
  match s.readOperand o with
  | .error f => s.raise f
  | .ok m => (effect m s).finish o (base + s.crossClock o flag)

/-- A write-class instruction (R125): write `r` to its location, complete. -/
def State.writeClass (o : Operand) (base : Nat) (r : Byte) (s : State) : Result :=
  match s.writeLoc (s.resolve o).loc r with
  | .error f => s.raise f
  | .ok t => t.finish o base

/-- A read-modify-write instruction (R62, R125): one read, the carry that `carry` gives, one write of the result, then
setNZ of the result. The location is resolved once, before the read. A write that faults leaves C updated, as the order of
the pseudocode has it (DEDUCED, unsafe, log entry 7). -/
def State.modifyClass (o : Operand) (base : Nat) (result : Bool → Byte → Byte) (carry : Bool → Byte → Bool)
    (s : State) : Result :=
  let l := (s.resolve o).loc
  match s.readLoc l with
  | .error f => s.raise f
  | .ok v =>
    let r := result s.flags.c v
    let s1 := { s with flags := { s.flags with c := carry s.flags.c v } }
    match s1.writeLoc l r with
    | .error f => s1.raise f
    | .ok t => State.finish o base { t with flags := t.flags.setNZ r }

/-- An instruction with no operand, whose effect touches no memory that can fault: apply the effect, complete. -/
def State.impliedClass (base : Nat) (effect : State → State) (s : State) : Result :=
  (effect s).finish .imp base

/-- The extra clocks of a branch (R232). -/
def branchExtra (timing : BranchTiming) (taken cross : Bool) : Nat :=
  match timing with
  | .flat => 0
  | .standard => if taken then (if cross then 2 else 1) else 0

/-- A branch (R123, R204 to R211, R232). -/
def State.branch (base : Nat) (taken : Bool) (r : Byte) (s : State) : Result :=
  .next ({ s with pc := if taken then branchTarget s.pc r else branchNext s.pc }.charge
    (base + branchExtra s.cfg.branchTiming taken (branchCross s.pc r)))

/-! ### Register loads with setNZ (R10) -/

/-- `A <- v; setNZ(A)`. -/
def State.loadA (v : Byte) (s : State) : State :=
  { s with a := v, flags := s.flags.setNZ v }

/-- `X <- v; setNZ(X)`. -/
def State.loadX (v : Byte) (s : State) : State :=
  { s with x := v, flags := s.flags.setNZ v }

/-- `Y <- v; setNZ(Y)`. -/
def State.loadY (v : Byte) (s : State) : State :=
  { s with y := v, flags := s.flags.setNZ v }

end Sys2Proof.Machine
end

