-- ==== Sys2Proof/Machine/Arith.lean ====
section
/-! DEFINITION. Arithmetic, logical, compare and bit-test instructions (43_arith_logic.md): the effect of each mnemonic on the
registers, then one meaning per row of the opcode map. -/

namespace Sys2Proof.Machine

/-- The effect of ADC (R160). -/
def State.addCarry (m : Byte) (s : State) : State :=
  let sum := exactSum s.a m s.flags.c
  let r := BitVec.ofNat 8 sum
  { s with
    a := r
    flags := { s.flags with c := decide (0xFF < sum), v := overflowAdd s.cfg.vMode s.a m r }.setNZ r }

/-- The effect of SBC (R161). -/
def State.subtractBorrow (m : Byte) (s : State) : State :=
  let diff := exactDifference s.a m s.flags.c
  let r := BitVec.ofInt 8 diff
  { s with
    a := r
    flags :=
      { s.flags with c := decide (0 ≤ diff), v := overflowSub s.cfg.vMode s.cfg.sbcVOperand s.a m r }.setNZ r }

/-- The effect of AND (R162). -/
def State.andA (m : Byte) (s : State) : State :=
  s.loadA (s.a &&& m)

/-- The effect of ORA (R163). -/
def State.orA (m : Byte) (s : State) : State :=
  s.loadA (s.a ||| m)

/-- The effect of EOR (R164). -/
def State.xorA (m : Byte) (s : State) : State :=
  s.loadA (s.a ^^^ m)

/-- The effect of CMP (R165). -/
def State.compareA (m : Byte) (s : State) : State :=
  { s with flags := s.flags.compare s.a m }

/-- The effect of CPX (R166). -/
def State.compareX (m : Byte) (s : State) : State :=
  { s with flags := s.flags.compare s.x m }

/-- The effect of CPY (R167). -/
def State.compareY (m : Byte) (s : State) : State :=
  { s with flags := s.flags.compare s.y m }

/-- The effect of BIT (R168). -/
def State.bitTest (m : Byte) (s : State) : State :=
  { s with flags := s.flags.bitTest s.a m }

/-- Whether R171's check stops ADC and SBC. -/
def State.decimalFaults (s : State) : Bool :=
  match s.cfg.decimal with
  | .binary => false
  | .fault => s.flags.d

/-- ADC and SBC: R171's check, before the operand is read (R372), and then a read-class instruction. -/
def State.arithClass (o : Operand) (base : Nat) (flag : Bool) (effect : Byte → State → State) (s : State) : Result :=
  if s.decimalFaults then s.raise (.decimalUnsupported s.pc) else s.readClass o base flag effect

/-- ADC, immediate: add with carry (R160; opcode 69). -/
def execAdcImm (v : Byte) (s : State) : Result :=
  s.arithClass (.imm v) 2 false State.addCarry

/-- ADC, zero page: add with carry (R160; opcode 65). -/
def execAdcZp (z : Byte) (s : State) : Result :=
  s.arithClass (.zp z) 3 false State.addCarry

/-- ADC, zero page,X: add with carry (R160; opcode 75). -/
def execAdcZpx (z : Byte) (s : State) : Result :=
  s.arithClass (.zpx z) 4 false State.addCarry

/-- ADC, absolute: add with carry (R160; opcode 6D). -/
def execAdcAbs (w : Word) (s : State) : Result :=
  s.arithClass (.abs w) 4 false State.addCarry

/-- ADC, absolute,X: add with carry (R160; opcode 7D). -/
def execAdcAbsx (w : Word) (s : State) : Result :=
  s.arithClass (.absx w) 4 true State.addCarry

/-- ADC, absolute,Y: add with carry (R160; opcode 79). -/
def execAdcAbsy (w : Word) (s : State) : Result :=
  s.arithClass (.absy w) 4 true State.addCarry

/-- ADC, (zero page,X): add with carry (R160; opcode 61). -/
def execAdcIndx (z : Byte) (s : State) : Result :=
  s.arithClass (.indx z) 6 false State.addCarry

/-- ADC, (zero page),Y: add with carry (R160; opcode 71). -/
def execAdcIndy (z : Byte) (s : State) : Result :=
  s.arithClass (.indy z) 5 true State.addCarry

/-- SBC, immediate: subtract with borrow (R161; opcode E9). -/
def execSbcImm (v : Byte) (s : State) : Result :=
  s.arithClass (.imm v) 2 false State.subtractBorrow

/-- SBC, zero page: subtract with borrow (R161; opcode E5). -/
def execSbcZp (z : Byte) (s : State) : Result :=
  s.arithClass (.zp z) 3 false State.subtractBorrow

/-- SBC, zero page,X: subtract with borrow (R161; opcode F5). -/
def execSbcZpx (z : Byte) (s : State) : Result :=
  s.arithClass (.zpx z) 4 false State.subtractBorrow

/-- SBC, absolute: subtract with borrow (R161; opcode ED). -/
def execSbcAbs (w : Word) (s : State) : Result :=
  s.arithClass (.abs w) 4 false State.subtractBorrow

/-- SBC, absolute,X: subtract with borrow (R161; opcode FD). -/
def execSbcAbsx (w : Word) (s : State) : Result :=
  s.arithClass (.absx w) 4 true State.subtractBorrow

/-- SBC, absolute,Y: subtract with borrow (R161; opcode F9). -/
def execSbcAbsy (w : Word) (s : State) : Result :=
  s.arithClass (.absy w) 4 true State.subtractBorrow

/-- SBC, (zero page,X): subtract with borrow (R161; opcode E1). -/
def execSbcIndx (z : Byte) (s : State) : Result :=
  s.arithClass (.indx z) 6 false State.subtractBorrow

/-- SBC, (zero page),Y: subtract with borrow (R161; opcode F1). -/
def execSbcIndy (z : Byte) (s : State) : Result :=
  s.arithClass (.indy z) 5 true State.subtractBorrow

/-- AND, immediate: bitwise and (R162; opcode 29). -/
def execAndImm (v : Byte) (s : State) : Result :=
  s.readClass (.imm v) 2 false State.andA

/-- AND, zero page: bitwise and (R162; opcode 25). -/
def execAndZp (z : Byte) (s : State) : Result :=
  s.readClass (.zp z) 3 false State.andA

/-- AND, zero page,X: bitwise and (R162; opcode 35). -/
def execAndZpx (z : Byte) (s : State) : Result :=
  s.readClass (.zpx z) 4 false State.andA

/-- AND, absolute: bitwise and (R162; opcode 2D). -/
def execAndAbs (w : Word) (s : State) : Result :=
  s.readClass (.abs w) 4 false State.andA

/-- AND, absolute,X: bitwise and (R162; opcode 3D). -/
def execAndAbsx (w : Word) (s : State) : Result :=
  s.readClass (.absx w) 4 true State.andA

/-- AND, absolute,Y: bitwise and (R162; opcode 39). -/
def execAndAbsy (w : Word) (s : State) : Result :=
  s.readClass (.absy w) 4 true State.andA

/-- AND, (zero page,X): bitwise and (R162; opcode 21). -/
def execAndIndx (z : Byte) (s : State) : Result :=
  s.readClass (.indx z) 6 false State.andA

/-- AND, (zero page),Y: bitwise and (R162; opcode 31). -/
def execAndIndy (z : Byte) (s : State) : Result :=
  s.readClass (.indy z) 5 true State.andA

/-- ORA, immediate: bitwise or (R163; opcode 09). -/
def execOraImm (v : Byte) (s : State) : Result :=
  s.readClass (.imm v) 2 false State.orA

/-- ORA, zero page: bitwise or (R163; opcode 05). -/
def execOraZp (z : Byte) (s : State) : Result :=
  s.readClass (.zp z) 3 false State.orA

/-- ORA, zero page,X: bitwise or (R163; opcode 15). -/
def execOraZpx (z : Byte) (s : State) : Result :=
  s.readClass (.zpx z) 4 false State.orA

/-- ORA, absolute: bitwise or (R163; opcode 0D). -/
def execOraAbs (w : Word) (s : State) : Result :=
  s.readClass (.abs w) 4 false State.orA

/-- ORA, absolute,X: bitwise or (R163; opcode 1D). -/
def execOraAbsx (w : Word) (s : State) : Result :=
  s.readClass (.absx w) 4 true State.orA

/-- ORA, absolute,Y: bitwise or (R163; opcode 19). -/
def execOraAbsy (w : Word) (s : State) : Result :=
  s.readClass (.absy w) 4 true State.orA

/-- ORA, (zero page,X): bitwise or (R163; opcode 01). -/
def execOraIndx (z : Byte) (s : State) : Result :=
  s.readClass (.indx z) 6 false State.orA

/-- ORA, (zero page),Y: bitwise or (R163; opcode 11). -/
def execOraIndy (z : Byte) (s : State) : Result :=
  s.readClass (.indy z) 5 true State.orA

/-- EOR, immediate: bitwise exclusive or (R164; opcode 49). -/
def execEorImm (v : Byte) (s : State) : Result :=
  s.readClass (.imm v) 2 false State.xorA

/-- EOR, zero page: bitwise exclusive or (R164; opcode 45). -/
def execEorZp (z : Byte) (s : State) : Result :=
  s.readClass (.zp z) 3 false State.xorA

/-- EOR, zero page,X: bitwise exclusive or (R164; opcode 55). -/
def execEorZpx (z : Byte) (s : State) : Result :=
  s.readClass (.zpx z) 4 false State.xorA

/-- EOR, absolute: bitwise exclusive or (R164; opcode 4D). -/
def execEorAbs (w : Word) (s : State) : Result :=
  s.readClass (.abs w) 4 false State.xorA

/-- EOR, absolute,X: bitwise exclusive or (R164; opcode 5D). -/
def execEorAbsx (w : Word) (s : State) : Result :=
  s.readClass (.absx w) 4 true State.xorA

/-- EOR, absolute,Y: bitwise exclusive or (R164; opcode 59). -/
def execEorAbsy (w : Word) (s : State) : Result :=
  s.readClass (.absy w) 4 true State.xorA

/-- EOR, (zero page,X): bitwise exclusive or (R164; opcode 41). -/
def execEorIndx (z : Byte) (s : State) : Result :=
  s.readClass (.indx z) 6 false State.xorA

/-- EOR, (zero page),Y: bitwise exclusive or (R164; opcode 51). -/
def execEorIndy (z : Byte) (s : State) : Result :=
  s.readClass (.indy z) 5 true State.xorA

/-- CMP, immediate: compare with accumulator (R165; opcode C9). -/
def execCmpImm (v : Byte) (s : State) : Result :=
  s.readClass (.imm v) 2 false State.compareA

/-- CMP, zero page: compare with accumulator (R165; opcode C5). -/
def execCmpZp (z : Byte) (s : State) : Result :=
  s.readClass (.zp z) 3 false State.compareA

/-- CMP, zero page,X: compare with accumulator (R165; opcode D5). -/
def execCmpZpx (z : Byte) (s : State) : Result :=
  s.readClass (.zpx z) 4 false State.compareA

/-- CMP, absolute: compare with accumulator (R165; opcode CD). -/
def execCmpAbs (w : Word) (s : State) : Result :=
  s.readClass (.abs w) 4 false State.compareA

/-- CMP, absolute,X: compare with accumulator (R165; opcode DD). -/
def execCmpAbsx (w : Word) (s : State) : Result :=
  s.readClass (.absx w) 4 true State.compareA

/-- CMP, absolute,Y: compare with accumulator (R165; opcode D9). -/
def execCmpAbsy (w : Word) (s : State) : Result :=
  s.readClass (.absy w) 4 true State.compareA

/-- CMP, (zero page,X): compare with accumulator (R165; opcode C1). -/
def execCmpIndx (z : Byte) (s : State) : Result :=
  s.readClass (.indx z) 6 false State.compareA

/-- CMP, (zero page),Y: compare with accumulator (R165; opcode D1). -/
def execCmpIndy (z : Byte) (s : State) : Result :=
  s.readClass (.indy z) 5 true State.compareA

/-- CPX, immediate: compare with X (R166; opcode E0). -/
def execCpxImm (v : Byte) (s : State) : Result :=
  s.readClass (.imm v) 2 false State.compareX

/-- CPX, zero page: compare with X (R166; opcode E4). -/
def execCpxZp (z : Byte) (s : State) : Result :=
  s.readClass (.zp z) 3 false State.compareX

/-- CPX, absolute: compare with X (R166; opcode EC). -/
def execCpxAbs (w : Word) (s : State) : Result :=
  s.readClass (.abs w) 4 false State.compareX

/-- CPY, immediate: compare with Y (R167; opcode C0). -/
def execCpyImm (v : Byte) (s : State) : Result :=
  s.readClass (.imm v) 2 false State.compareY

/-- CPY, zero page: compare with Y (R167; opcode C4). -/
def execCpyZp (z : Byte) (s : State) : Result :=
  s.readClass (.zp z) 3 false State.compareY

/-- CPY, absolute: compare with Y (R167; opcode CC). -/
def execCpyAbs (w : Word) (s : State) : Result :=
  s.readClass (.abs w) 4 false State.compareY

/-- BIT, zero page: bit test (R168; opcode 24). -/
def execBitZp (z : Byte) (s : State) : Result :=
  s.readClass (.zp z) 3 false State.bitTest

/-- BIT, absolute: bit test (R168; opcode 2C). -/
def execBitAbs (w : Word) (s : State) : Result :=
  s.readClass (.abs w) 4 false State.bitTest

end Sys2Proof.Machine
end

