-- ==== Sys2Proof/Machine/Control.lean ====
section
/-! DEFINITION. Control transfer, flag and system instructions (45_control_system.md): one meaning per row of the opcode map. -/

namespace Sys2Proof.Machine

/-- Whether an RTS that lands on `pc` halts the processor (R212). -/
def isSentinel (c : Config) (pc : Word) : Bool :=
  pc == c.sentinelInit || pc == c.sentinelPlay

/-- RTS but for its cost (R202), with the sentinel check of R212. -/
def State.subroutineReturn (s : State) : State :=
  let target := s.top16 + 1
  { s.pop.pop with pc := target, halted := s.halted || isSentinel s.cfg target }

/-- JMP, absolute: jump (R200; opcode 4C). -/
def execJmpAbs (w : Word) (s : State) : Result :=
  .next ({ s with pc := w }.charge 3)

/-- JMP, indirect: jump (R200; opcode 6C). -/
def execJmpInd (w : Word) (s : State) : Result :=
  match s.indirectTarget w with
  | .error f => s.raise f
  | .ok target => .next ({ s with pc := target }.charge 5)

/-- JSR, absolute: jump to subroutine, pushing the address of its last byte (R201; opcode 20). -/
def execJsr (w : Word) (s : State) : Result :=
  .next ({ s.push16 (s.pc + 2) with pc := w }.charge 6)

/-- RTS, implied: return from subroutine (R202; opcode 60). -/
def execRts (s : State) : Result :=
  .next ((s.subroutineReturn).charge 6)

/-- RTI, implied: return from interrupt (R203; opcode 40). -/
def execRti (s : State) : Result :=
  s.returnFromTrap 6

/-- BCC, relative: branch if carry clear (R204; opcode 90). -/
def execBcc (r : Byte) (s : State) : Result :=
  s.branch 2 (!s.flags.c) r

/-- BCS, relative: branch if carry set (R205; opcode B0). -/
def execBcs (r : Byte) (s : State) : Result :=
  s.branch 2 s.flags.c r

/-- BEQ, relative: branch if equal (R206; opcode F0). -/
def execBeq (r : Byte) (s : State) : Result :=
  s.branch 2 s.flags.z r

/-- BNE, relative: branch if not equal (R207; opcode D0). -/
def execBne (r : Byte) (s : State) : Result :=
  s.branch 2 (!s.flags.z) r

/-- BMI, relative: branch if minus (R208; opcode 30). -/
def execBmi (r : Byte) (s : State) : Result :=
  s.branch 2 s.flags.n r

/-- BPL, relative: branch if plus (R209; opcode 10). -/
def execBpl (r : Byte) (s : State) : Result :=
  s.branch 2 (!s.flags.n) r

/-- BVC, relative: branch if overflow clear (R210; opcode 50). -/
def execBvc (r : Byte) (s : State) : Result :=
  s.branch 2 (!s.flags.v) r

/-- BVS, relative: branch if overflow set (R211; opcode 70). -/
def execBvs (r : Byte) (s : State) : Result :=
  s.branch 2 s.flags.v r

/-- CLC, implied: clear carry (R213; opcode 18). -/
def execClc (s : State) : Result :=
  s.impliedClass 2 fun s => { s with flags := { s.flags with c := false } }

/-- SEC, implied: set carry (R214; opcode 38). -/
def execSec (s : State) : Result :=
  s.impliedClass 2 fun s => { s with flags := { s.flags with c := true } }

/-- CLI, implied: clear interrupt disable, which nothing reads (R215; opcode 58). -/
def execCli (s : State) : Result :=
  s.impliedClass 2 fun s => { s with flags := { s.flags with i := false } }

/-- SEI, implied: set interrupt disable, which nothing reads (R216; opcode 78). -/
def execSei (s : State) : Result :=
  s.impliedClass 2 fun s => { s with flags := { s.flags with i := true } }

/-- CLD, implied: clear decimal (R217; opcode D8). -/
def execCld (s : State) : Result :=
  s.impliedClass 2 fun s => { s with flags := { s.flags with d := false } }

/-- SED, implied: set decimal (R218; opcode F8). -/
def execSed (s : State) : Result :=
  s.impliedClass 2 fun s => { s with flags := { s.flags with d := true } }

/-- CLV, implied: clear overflow (R219; opcode B8). -/
def execClv (s : State) : Result :=
  s.impliedClass 2 fun s => { s with flags := { s.flags with v := false } }

/-- NOP, implied: no operation (R220; opcode EA). -/
def execNop (s : State) : Result :=
  s.impliedClass 2 fun s => s

/-- BRK, implied: break (R225; opcode 00). -/
def execBrk (s : State) : Result :=
  match s.cfg.brk with
  | .fault => s.raise (.unsupportedOpcode s.pc 0x00)
  | .standard => s.trap 7

end Sys2Proof.Machine
end

