-- ==== Sys2Proof/Machine/IncDecShift.lean ====
section
/-! DEFINITION. Increment, decrement, shift and rotate instructions (44_incdec_shift.md): the result and the carry of each
read-modify-write mnemonic, then one meaning per row of the opcode map. -/

namespace Sys2Proof.Machine

/-- The result of INC (R180). -/
def increment (_ : Bool) (v : Byte) : Byte :=
  v + 1

/-- The result of DEC (R181). -/
def decrement (_ : Bool) (v : Byte) : Byte :=
  v - 1

/-- The result of ASL (R186). -/
def shiftLeft (_ : Bool) (v : Byte) : Byte :=
  v <<< 1

/-- The result of LSR (R187). -/
def shiftRight (_ : Bool) (v : Byte) : Byte :=
  v >>> 1

/-- The result of ROL, with the old carry in bit 0 (R188). -/
def rotateLeft (c : Bool) (v : Byte) : Byte :=
  (v <<< 1) ||| (BitVec.ofBool c).setWidth 8

/-- The result of ROR, with the old carry in bit 7 (R189). -/
def rotateRight (c : Bool) (v : Byte) : Byte :=
  (v >>> 1) ||| ((BitVec.ofBool c).setWidth 8 <<< 7)

/-- C after INC and DEC: unchanged (R180, R181). -/
def carryKept (c : Bool) (_ : Byte) : Bool :=
  c

/-- C after ASL and ROL: bit 7 of the operand (R186, R188). -/
def carryOut7 (_ : Bool) (v : Byte) : Bool :=
  v.getLsbD 7

/-- C after LSR and ROR: bit 0 of the operand (R187, R189). -/
def carryOut0 (_ : Bool) (v : Byte) : Bool :=
  v.getLsbD 0

/-- INC, zero page: increment memory (R180; opcode E6). -/
def execIncZp (z : Byte) (s : State) : Result :=
  s.modifyClass (.zp z) 5 increment carryKept

/-- INC, zero page,X: increment memory (R180; opcode F6). -/
def execIncZpx (z : Byte) (s : State) : Result :=
  s.modifyClass (.zpx z) 6 increment carryKept

/-- INC, absolute: increment memory (R180; opcode EE). -/
def execIncAbs (w : Word) (s : State) : Result :=
  s.modifyClass (.abs w) 6 increment carryKept

/-- INC, absolute,X: increment memory (R180; opcode FE). -/
def execIncAbsx (w : Word) (s : State) : Result :=
  s.modifyClass (.absx w) 7 increment carryKept

/-- DEC, zero page: decrement memory (R181; opcode C6). -/
def execDecZp (z : Byte) (s : State) : Result :=
  s.modifyClass (.zp z) 5 decrement carryKept

/-- DEC, zero page,X: decrement memory (R181; opcode D6). -/
def execDecZpx (z : Byte) (s : State) : Result :=
  s.modifyClass (.zpx z) 6 decrement carryKept

/-- DEC, absolute: decrement memory (R181; opcode CE). -/
def execDecAbs (w : Word) (s : State) : Result :=
  s.modifyClass (.abs w) 6 decrement carryKept

/-- DEC, absolute,X: decrement memory (R181; opcode DE). -/
def execDecAbsx (w : Word) (s : State) : Result :=
  s.modifyClass (.absx w) 7 decrement carryKept

/-- INX, implied: increment X (R182; opcode E8). -/
def execInx (s : State) : Result :=
  s.impliedClass 2 fun s => s.loadX (s.x + 1)

/-- INY, implied: increment Y (R183; opcode C8). -/
def execIny (s : State) : Result :=
  s.impliedClass 2 fun s => s.loadY (s.y + 1)

/-- DEX, implied: decrement X (R184; opcode CA). -/
def execDex (s : State) : Result :=
  s.impliedClass 2 fun s => s.loadX (s.x - 1)

/-- DEY, implied: decrement Y (R185; opcode 88). -/
def execDey (s : State) : Result :=
  s.impliedClass 2 fun s => s.loadY (s.y - 1)

/-- ASL, accumulator: arithmetic shift left (R186; opcode 0A). -/
def execAslAcc (s : State) : Result :=
  s.modifyClass .acc 2 shiftLeft carryOut7

/-- ASL, zero page: arithmetic shift left (R186; opcode 06). -/
def execAslZp (z : Byte) (s : State) : Result :=
  s.modifyClass (.zp z) 5 shiftLeft carryOut7

/-- ASL, zero page,X: arithmetic shift left (R186; opcode 16). -/
def execAslZpx (z : Byte) (s : State) : Result :=
  s.modifyClass (.zpx z) 6 shiftLeft carryOut7

/-- ASL, absolute: arithmetic shift left (R186; opcode 0E). -/
def execAslAbs (w : Word) (s : State) : Result :=
  s.modifyClass (.abs w) 6 shiftLeft carryOut7

/-- ASL, absolute,X: arithmetic shift left (R186; opcode 1E). -/
def execAslAbsx (w : Word) (s : State) : Result :=
  s.modifyClass (.absx w) 7 shiftLeft carryOut7

/-- LSR, accumulator: logical shift right (R187; opcode 4A). -/
def execLsrAcc (s : State) : Result :=
  s.modifyClass .acc 2 shiftRight carryOut0

/-- LSR, zero page: logical shift right (R187; opcode 46). -/
def execLsrZp (z : Byte) (s : State) : Result :=
  s.modifyClass (.zp z) 5 shiftRight carryOut0

/-- LSR, zero page,X: logical shift right (R187; opcode 56). -/
def execLsrZpx (z : Byte) (s : State) : Result :=
  s.modifyClass (.zpx z) 6 shiftRight carryOut0

/-- LSR, absolute: logical shift right (R187; opcode 4E). -/
def execLsrAbs (w : Word) (s : State) : Result :=
  s.modifyClass (.abs w) 6 shiftRight carryOut0

/-- LSR, absolute,X: logical shift right (R187; opcode 5E). -/
def execLsrAbsx (w : Word) (s : State) : Result :=
  s.modifyClass (.absx w) 7 shiftRight carryOut0

/-- ROL, accumulator: rotate left through carry (R188; opcode 2A). -/
def execRolAcc (s : State) : Result :=
  s.modifyClass .acc 2 rotateLeft carryOut7

/-- ROL, zero page: rotate left through carry (R188; opcode 26). -/
def execRolZp (z : Byte) (s : State) : Result :=
  s.modifyClass (.zp z) 5 rotateLeft carryOut7

/-- ROL, zero page,X: rotate left through carry (R188; opcode 36). -/
def execRolZpx (z : Byte) (s : State) : Result :=
  s.modifyClass (.zpx z) 6 rotateLeft carryOut7

/-- ROL, absolute: rotate left through carry (R188; opcode 2E). -/
def execRolAbs (w : Word) (s : State) : Result :=
  s.modifyClass (.abs w) 6 rotateLeft carryOut7

/-- ROL, absolute,X: rotate left through carry (R188; opcode 3E). -/
def execRolAbsx (w : Word) (s : State) : Result :=
  s.modifyClass (.absx w) 7 rotateLeft carryOut7

/-- ROR, accumulator: rotate right through carry (R189; opcode 6A). -/
def execRorAcc (s : State) : Result :=
  s.modifyClass .acc 2 rotateRight carryOut0

/-- ROR, zero page: rotate right through carry (R189; opcode 66). -/
def execRorZp (z : Byte) (s : State) : Result :=
  s.modifyClass (.zp z) 5 rotateRight carryOut0

/-- ROR, zero page,X: rotate right through carry (R189; opcode 76). -/
def execRorZpx (z : Byte) (s : State) : Result :=
  s.modifyClass (.zpx z) 6 rotateRight carryOut0

/-- ROR, absolute: rotate right through carry (R189; opcode 6E). -/
def execRorAbs (w : Word) (s : State) : Result :=
  s.modifyClass (.abs w) 6 rotateRight carryOut0

/-- ROR, absolute,X: rotate right through carry (R189; opcode 7E). -/
def execRorAbsx (w : Word) (s : State) : Result :=
  s.modifyClass (.absx w) 7 rotateRight carryOut0

end Sys2Proof.Machine
end

