-- ==== Sys2Proof/Machine/LoadStore.lean ====
section
/-! DEFINITION. Load, store and transfer instructions (41_load_store_transfer.md): one meaning per row of the opcode map. -/

namespace Sys2Proof.Machine

/-- LDA, immediate: load accumulator (R130; opcode A9). -/
def execLdaImm (v : Byte) (s : State) : Result :=
  s.readClass (.imm v) 2 false State.loadA

/-- LDA, zero page: load accumulator (R130; opcode A5). -/
def execLdaZp (z : Byte) (s : State) : Result :=
  s.readClass (.zp z) 3 false State.loadA

/-- LDA, zero page,X: load accumulator (R130; opcode B5). -/
def execLdaZpx (z : Byte) (s : State) : Result :=
  s.readClass (.zpx z) 4 false State.loadA

/-- LDA, absolute: load accumulator (R130; opcode AD). -/
def execLdaAbs (w : Word) (s : State) : Result :=
  s.readClass (.abs w) 4 false State.loadA

/-- LDA, absolute,X: load accumulator (R130; opcode BD). -/
def execLdaAbsx (w : Word) (s : State) : Result :=
  s.readClass (.absx w) 4 true State.loadA

/-- LDA, absolute,Y: load accumulator (R130; opcode B9). -/
def execLdaAbsy (w : Word) (s : State) : Result :=
  s.readClass (.absy w) 4 true State.loadA

/-- LDA, (zero page,X): load accumulator (R130; opcode A1). -/
def execLdaIndx (z : Byte) (s : State) : Result :=
  s.readClass (.indx z) 6 false State.loadA

/-- LDA, (zero page),Y: load accumulator (R130; opcode B1). -/
def execLdaIndy (z : Byte) (s : State) : Result :=
  s.readClass (.indy z) 5 true State.loadA

/-- LDX, immediate: load X (R131; opcode A2). -/
def execLdxImm (v : Byte) (s : State) : Result :=
  s.readClass (.imm v) 2 false State.loadX

/-- LDX, zero page: load X (R131; opcode A6). -/
def execLdxZp (z : Byte) (s : State) : Result :=
  s.readClass (.zp z) 3 false State.loadX

/-- LDX, zero page,Y: load X (R131; opcode B6). -/
def execLdxZpy (z : Byte) (s : State) : Result :=
  s.readClass (.zpy z) 4 false State.loadX

/-- LDX, absolute: load X (R131; opcode AE). -/
def execLdxAbs (w : Word) (s : State) : Result :=
  s.readClass (.abs w) 4 false State.loadX

/-- LDX, absolute,Y: load X (R131; opcode BE). -/
def execLdxAbsy (w : Word) (s : State) : Result :=
  s.readClass (.absy w) 4 true State.loadX

/-- LDY, immediate: load Y (R132; opcode A0). -/
def execLdyImm (v : Byte) (s : State) : Result :=
  s.readClass (.imm v) 2 false State.loadY

/-- LDY, zero page: load Y (R132; opcode A4). -/
def execLdyZp (z : Byte) (s : State) : Result :=
  s.readClass (.zp z) 3 false State.loadY

/-- LDY, zero page,X: load Y (R132; opcode B4). -/
def execLdyZpx (z : Byte) (s : State) : Result :=
  s.readClass (.zpx z) 4 false State.loadY

/-- LDY, absolute: load Y (R132; opcode AC). -/
def execLdyAbs (w : Word) (s : State) : Result :=
  s.readClass (.abs w) 4 false State.loadY

/-- LDY, absolute,X: load Y (R132; opcode BC). -/
def execLdyAbsx (w : Word) (s : State) : Result :=
  s.readClass (.absx w) 4 true State.loadY

/-- STA, zero page: store accumulator (R133; opcode 85). -/
def execStaZp (z : Byte) (s : State) : Result :=
  s.writeClass (.zp z) 3 s.a

/-- STA, zero page,X: store accumulator (R133; opcode 95). -/
def execStaZpx (z : Byte) (s : State) : Result :=
  s.writeClass (.zpx z) 4 s.a

/-- STA, absolute: store accumulator (R133; opcode 8D). -/
def execStaAbs (w : Word) (s : State) : Result :=
  s.writeClass (.abs w) 4 s.a

/-- STA, absolute,X: store accumulator (R133; opcode 9D). -/
def execStaAbsx (w : Word) (s : State) : Result :=
  s.writeClass (.absx w) 5 s.a

/-- STA, absolute,Y: store accumulator (R133; opcode 99). -/
def execStaAbsy (w : Word) (s : State) : Result :=
  s.writeClass (.absy w) 5 s.a

/-- STA, (zero page,X): store accumulator (R133; opcode 81). -/
def execStaIndx (z : Byte) (s : State) : Result :=
  s.writeClass (.indx z) 6 s.a

/-- STA, (zero page),Y: store accumulator (R133; opcode 91). -/
def execStaIndy (z : Byte) (s : State) : Result :=
  s.writeClass (.indy z) 6 s.a

/-- STX, zero page: store X (R134; opcode 86). -/
def execStxZp (z : Byte) (s : State) : Result :=
  s.writeClass (.zp z) 3 s.x

/-- STX, zero page,Y: store X (R134; opcode 96). -/
def execStxZpy (z : Byte) (s : State) : Result :=
  s.writeClass (.zpy z) 4 s.x

/-- STX, absolute: store X (R134; opcode 8E). -/
def execStxAbs (w : Word) (s : State) : Result :=
  s.writeClass (.abs w) 4 s.x

/-- STY, zero page: store Y (R135; opcode 84). -/
def execStyZp (z : Byte) (s : State) : Result :=
  s.writeClass (.zp z) 3 s.y

/-- STY, zero page,X: store Y (R135; opcode 94). -/
def execStyZpx (z : Byte) (s : State) : Result :=
  s.writeClass (.zpx z) 4 s.y

/-- STY, absolute: store Y (R135; opcode 8C). -/
def execStyAbs (w : Word) (s : State) : Result :=
  s.writeClass (.abs w) 4 s.y

/-- TAX, implied: transfer A to X (R136; opcode AA). -/
def execTax (s : State) : Result :=
  s.impliedClass 2 fun s => s.loadX s.a

/-- TAY, implied: transfer A to Y (R137; opcode A8). -/
def execTay (s : State) : Result :=
  s.impliedClass 2 fun s => s.loadY s.a

/-- TXA, implied: transfer X to A (R138; opcode 8A). -/
def execTxa (s : State) : Result :=
  s.impliedClass 2 fun s => s.loadA s.x

/-- TYA, implied: transfer Y to A (R139; opcode 98). -/
def execTya (s : State) : Result :=
  s.impliedClass 2 fun s => s.loadA s.y

/-- TSX, implied: transfer S to X (R140; opcode BA). -/
def execTsx (s : State) : Result :=
  s.impliedClass 2 fun s => s.loadX s.sp

/-- TXS, implied: transfer X to S, writing no flag (R141; opcode 9A). -/
def execTxs (s : State) : Result :=
  s.impliedClass 2 fun s => { s with sp := s.x }

end Sys2Proof.Machine
end

