-- ==== Sys2Proof/Machine/Stack.lean ====
section
/-! DEFINITION. Stack instructions (42_stack.md): one meaning per row of the opcode map. -/

namespace Sys2Proof.Machine

/-- PHA, implied: push accumulator (R150; opcode 48). -/
def execPha (s : State) : Result :=
  s.impliedClass 3 fun s => s.push s.a

/-- PHP, implied: push processor status (R151; opcode 08). -/
def execPhp (s : State) : Result :=
  s.impliedClass 3 fun s => s.push s.flags.pushed

/-- PLA, implied: pull accumulator (R152; opcode 68). -/
def execPla (s : State) : Result :=
  s.impliedClass 4 fun s => s.pop.loadA s.top

/-- PLP, implied: pull processor status (R153; opcode 28). -/
def execPlp (s : State) : Result :=
  s.impliedClass 4 fun s => { s.pop with flags := Flags.unpack s.top }

end Sys2Proof.Machine
end

