-- ==== Sys2Proof/Machine/FrameSequencer.lean ====
section
/-! DEFINITION. The frame sequencer (R260 to R265) and the four units its events clock: envelope (R266, R267), length
counter (R268), linear counter (R269) and sweep (R270 to R272). -/

namespace Sys2Proof.Machine

/-- Envelope clock (R266). -/
def Envelope.clock (e : Envelope) : Envelope :=
  if e.start then { e with start := false, decay := 15, div := e.vol }
  else if e.div = 0 then
    { e with
      div := e.vol
      decay := if 0 < e.decay then e.decay - 1 else if e.halt then 15 else e.decay }
  else { e with div := e.div - 1 }

/-- Envelope output (R267). -/
def Envelope.out (e : Envelope) : BitVec 4 :=
  if e.constVol then e.vol else e.decay

/-- Length clock (R268). -/
def lengthClock (halt : Bool) (length : Nat) : Nat :=
  if !halt && decide (0 < length) then length - 1 else length

/-- Linear-counter clock (R269). -/
def Triangle.linearClock (t : Triangle) : Triangle :=
  { t with
    lin := if t.linReloadFlag then t.linReloadValue else if 0 < t.lin then t.lin - 1 else t.lin
    linReloadFlag := t.linReloadFlag && t.control }

/-- The sweep target of a pulse channel, in exact integers (R270); `first` says that it is pulse 1, which subtracts one
more. -/
def Pulse.sweepTarget (first : Bool) (p : Pulse) : Int :=
  let change : Int := (p.period.toNat >>> p.sweep.shift.toNat : Nat)
  if p.sweep.neg then p.period.toNat - change - (if first then 1 else 0) else p.period.toNat + change

/-- The new value of sweep_mute (R271): the sweep is enabled and its target exceeds P_SWEEP_LIMIT. -/
def Pulse.sweepOverflows (c : Config) (first : Bool) (p : Pulse) : Bool :=
  p.sweep.en && decide ((c.sweepLimit : Int) < p.sweepTarget first)

/-- Whether a sweep clock updates the period (R271). -/
def Pulse.sweepUpdates (c : Config) (first : Bool) (p : Pulse) : Bool :=
  decide (p.sweep.div = 0) && p.sweep.en && decide (p.sweep.shift ≠ 0) && !p.sweepOverflows c first &&
    decide (c.pulseMinPeriod ≤ p.period.toNat)

/-- Sweep clock (R271). -/
def Pulse.sweepClock (c : Config) (first : Bool) (p : Pulse) : Pulse :=
  let reloads : Bool := decide (p.sweep.div = 0) || p.sweep.reload
  { p with
    period := if p.sweepUpdates c first then BitVec.ofInt 12 (p.sweepTarget first) else p.period
    sweep := { p.sweep with
      mute := p.sweepOverflows c first
      div := if reloads then p.sweep.period else p.sweep.div - 1
      reload := p.sweep.reload && !reloads } }

/-- Quarter-frame actions (R263). -/
def Apu.quarterFrame (p : Apu) : Apu :=
  { p with
    pulse1 := { p.pulse1 with env := p.pulse1.env.clock }
    pulse2 := { p.pulse2 with env := p.pulse2.env.clock }
    noise := { p.noise with env := p.noise.env.clock }
    triangle := p.triangle.linearClock }

/-- The length-counter clocks of a half-frame event (R264). -/
def Apu.lengthClocks (p : Apu) : Apu :=
  { p with
    pulse1 := { p.pulse1 with length := lengthClock p.pulse1.env.halt p.pulse1.length }
    pulse2 := { p.pulse2 with length := lengthClock p.pulse2.env.halt p.pulse2.length }
    triangle := { p.triangle with length := lengthClock p.triangle.control p.triangle.length }
    noise := { p.noise with length := lengthClock p.noise.env.halt p.noise.length } }

/-- The sweep clocks of a half-frame event (R264). -/
def Apu.sweepClocks (c : Config) (p : Apu) : Apu :=
  { p with pulse1 := p.pulse1.sweepClock c true, pulse2 := p.pulse2.sweepClock c false }

/-- Half-frame actions (R264). -/
def Apu.halfFrame (c : Config) (p : Apu) : Apu :=
  p.lengthClocks.sweepClocks c

/-- Whether step `s` emits a quarter-frame event (R262). -/
def emitsQuarter (s : Nat) : Bool :=
  decide (s ≤ 3)

/-- Whether step `s` emits a half-frame event (R262). -/
def emitsHalf (s : Nat) : Bool :=
  s == 1 || s == 3

/-- `FrameEvents(s)` (R262): the quarter-frame actions first, then the half-frame actions. -/
def Apu.frameEvents (c : Config) (s : Nat) (p : Apu) : Apu :=
  let p := if emitsQuarter s then p.quarterFrame else p
  if emitsHalf s then p.halfFrame c else p

/-- The number of steps of a mode (R260). -/
def FrameMode.steps : FrameMode → Nat
  | .four => 4
  | .five => 5

/-- `threshold(mode, s)` (R260), for a step of the mode. -/
def threshold (c : Config) (m : FrameMode) (s : Nat) : Nat :=
  match m with
  | .four => c.fsT4[s]?.getD 0
  | .five => c.fsT5[s]?.getD 0

/-- The threshold of the current step. -/
def Apu.threshold (c : Config) (p : Apu) : Nat :=
  Sys2Proof.Machine.threshold c p.seq.mode p.seq.step

/-- One pass of R261's loop: the current step fires. -/
def Apu.fireStep (c : Config) (p : Apu) : Apu :=
  let q := p.frameEvents c p.seq.step
  { q with seq := { p.seq with
      acc := match c.fsReset with
        | .zero => 0
        | .carry => p.seq.acc - (p.threshold c + 1)
      step := (p.seq.step + 1) % p.seq.mode.steps } }

/-- R261's loop, for at most `fuel` passes. -/
def Apu.fireSteps (c : Config) : Nat → Apu → Apu
  | 0, p => p
  | fuel + 1, p => if p.threshold c < p.seq.acc then Apu.fireSteps c fuel (p.fireStep c) else p

/-- `fs_advance(d)` (R261). Each pass lowers the accumulator, so a fuel of its value ends the loop
(`Apu.fireSteps_done`). -/
def Apu.advanceFrame (c : Config) (d : Nat) (p : Apu) : Apu :=
  let p := { p with seq := { p.seq with acc := p.seq.acc + d } }
  Apu.fireSteps c p.seq.acc p

end Sys2Proof.Machine
end

