-- ==== Sys2Proof/Machine/Channels.lean ====
section
/-! DEFINITION. The waveform generators (47_apu_channels.md): the per-clock tick and the amplitude of each channel. The
DMC's tick that fetches a byte stands in Machine/Tick.lean, since it reads memory. -/

namespace Sys2Proof.Machine

/-- Pulse clock (R281). -/
def Pulse.clock (c : Config) (p : Pulse) : Pulse :=
  if p.period.toNat < c.pulseMinPeriod then p
  else if p.timer = 0 then { p with timer := 2 * (p.period.toNat + 1) - 1, step := p.step + 1 }
  else { p with timer := p.timer - 1 }

/-- Pulse amplitude (R284). -/
def Pulse.amp (c : Config) (p : Pulse) : Nat :=
  if p.length = 0 then 0
  else if p.period.toNat < c.pulseMinPeriod then 0
  else if p.sweep.mute then 0
  else (c.duty[p.duty.toNat]'p.duty.isLt)[p.step.toNat]'p.step.isLt * p.env.out.toNat

/-- The triangle sequence TRI (R290). -/
def triangleSequence (s : BitVec 5) : Nat :=
  if s.toNat < 16 then 15 - s.toNat else s.toNat - 16

/-- Triangle clock (R291). -/
def Triangle.clock (c : Config) (t : Triangle) : Triangle :=
  if t.period.toNat < c.triMinPeriod then t
  else if t.timer = 0 then
    { t with
      timer := t.period
      step := if 0 < t.length ∧ 0 < t.lin then t.step + 1 else t.step }
  else { t with timer := t.timer - 1 }

/-- Triangle amplitude (R292). -/
def Triangle.amp (t : Triangle) : Nat :=
  triangleSequence t.step

/-- The feedback bit of the noise shift register (R296). -/
def noiseFeedback (mode : Bool) (lfsr : BitVec 15) : Bool :=
  lfsr.getLsbD 0 ^^ lfsr.getLsbD (if mode then 6 else 1)

/-- One shift of the noise register (R296). -/
def noiseShift (mode : Bool) (lfsr : BitVec 15) : BitVec 15 :=
  (lfsr >>> 1) ||| ((BitVec.ofBool (noiseFeedback mode lfsr)).setWidth 15 <<< 14)

/-- Noise clock (R296). -/
def Noise.clock (c : Config) (n : Noise) : Noise :=
  if n.timer = 0 then
    { n with
      timer := c.noisePeriod[n.periodIndex.toNat]'n.periodIndex.isLt - 1
      lfsr := noiseShift n.mode n.lfsr }
  else { n with timer := n.timer - 1 }

/-- Noise amplitude (R297). -/
def Noise.amp (n : Noise) : Nat :=
  if n.length = 0 then 0
  else if n.lfsr.getLsbD 14 then 0
  else n.env.out.toNat

/-- The address after a DMC fetch (R307): 0xFFFF wraps to 0x8000. -/
def dmcNextAddr (a : Word) : Word :=
  if a = 0xFFFF then 0x8000 else a + 1

/-- The DMC after it has fetched the byte `b` (R307, the fetch lines). -/
def Dmc.loadByte (c : Config) (b : Byte) (d : Dmc) : Dmc :=
  let d := { d with
    shift := b
    stallPending := d.stallPending + c.dmcStall
    curAddr := dmcNextAddr d.curAddr
    bytesRemaining := d.bytesRemaining - 1 }
  let d := if d.bytesRemaining = 0 ∧ d.loop then d.restart else d
  { d with bitsLeft := 8 }

/-- The DMC's output bit (R307, the output lines). -/
def Dmc.outputBit (d : Dmc) : Dmc :=
  if 0 < d.bitsLeft then
    { d with
      level := if d.shift.getLsbD 0 then min 63 (d.level + 1) else d.level - 1
      shift := d.shift >>> 1
      bitsLeft := d.bitsLeft - 1 }
  else d

/-- Whether the DMC fetches when its timer reloads (R307). -/
def Dmc.wantsByte (d : Dmc) : Bool :=
  decide (d.bitsLeft = 0) && decide (0 < d.bytesRemaining)

/-- The DMC's timer reload (R307). -/
def Dmc.reloadTimer (c : Config) (d : Dmc) : Dmc :=
  { d with timer := c.dmcRate[d.rateIndex.toNat]'d.rateIndex.isLt - 1 }

/-- DMC amplitude (R309). -/
def Dmc.amp (d : Dmc) : Nat :=
  d.level

/-- The channel clocks of one processor clock that touch no memory, in R315's order. -/
def Apu.clockWaves (c : Config) (p : Apu) : Apu :=
  { p with
    pulse1 := p.pulse1.clock c
    pulse2 := p.pulse2.clock c
    triangle := p.triangle.clock c
    noise := p.noise.clock c }

end Sys2Proof.Machine
end

