-- ==== Sys2Proof/Machine/Tick.lean ====
section
/-! DEFINITION. The APU tick (R342): the DMC clock, which reads memory (R307), the five channel clocks of one processor
clock (R315), and the propagation of an instruction's clocks. -/

namespace Sys2Proof.Machine

/-- The state with another DMC. -/
def State.withDmc (d : Dmc) (s : State) : State :=
  { s with apu := { s.apu with dmc := d } }

/-- `DmcClock()` (R307). A fetch that faults stops the clock with the timer already reloaded (R374; DEDUCED,
unsafe, log entry 10). -/
def State.dmcClock (s : State) : Result :=
  let d := s.apu.dmc
  if 0 < d.timer then .next (s.withDmc { d with timer := d.timer - 1 })
  else
    let d := d.reloadTimer s.cfg
    if d.wantsByte then
      match s.memRead d.curAddr with
      | .error f => (s.withDmc d).raise f
      | .ok b => .next (s.withDmc (d.loadByte s.cfg b).outputBit)
    else .next (s.withDmc d.outputBit)

/-- The channel clocks of one processor clock, in R315's order. -/
def State.clockChannels (s : State) : Result :=
  { s with apu := s.apu.clockWaves s.cfg }.dmcClock

/-- `repeat c times` of R342; a DMC fetch that faults leaves the remaining clocks undone. -/
def clockTimes : Nat → State → Result
  | 0, s => .next s
  | c + 1, s =>
    match s.clockChannels with
    | .next t => clockTimes c t
    | .fault f => .fault f
    | .refused r => .refused r

/-- `ApuTick(c)` (R342): the frame sequencer takes the whole delta, then the channels take their single clocks. -/
def State.apuTick (c : Nat) (s : State) : Result :=
  clockTimes c { s with apu := s.apu.advanceFrame s.cfg c }

end Sys2Proof.Machine
end

