-- ==== Sys2Proof/Machine/Cycle.lean ====
section
/-! DEFINITION. The instruction cycle (R231): the fetch of an instruction's bytes, ExecuteOne; the play driver (R345);
and the placing of bytes where a fetch reads them. -/

namespace Sys2Proof.Machine

/-- The operand bytes of an instruction of length `len` at `pc`, read in address order (R110). -/
def State.fetchOperands (s : State) (pc : Word) : Nat → Except CoreFault (List Byte)
  | 0 => .ok []
  | n + 1 =>
    match s.memRead pc with
    | .error f => .error f
    | .ok b =>
      match State.fetchOperands s (pc + 1) n with
      | .error f => .error f
      | .ok bs => .ok (b :: bs)

/-- The fetch and decode of the instruction at PC (R231): the opcode byte, then the operand bytes that its row asks for,
then the decoder. An unsupported opcode faults before any operand byte is read (R96, R371). -/
def State.fetch (s : State) : Except CoreFault Instr :=
  match s.memRead s.pc with
  | .error f => .error f
  | .ok op =>
    match opcodeLength op with
    | none => .error (.unsupportedOpcode s.pc op)
    | some len =>
      match s.fetchOperands (s.pc + 1) (len - 1) with
      | .error f => .error f
      | .ok bs =>
        match decode (op :: bs) with
        | .ok (i, _) => .ok i
        | .error _ => .error (.unsupportedOpcode s.pc op)

/-- `ExecuteOne()` (R231) of a core with no fault. While halted it fetches nothing and costs P_HALT_COST. -/
def State.executeOne (s : State) : Result :=
  if s.halted then .next (s.charge s.cfg.haltCost)
  else
    match s.fetch with
    | .error f => s.raise f
    | .ok i => exec i s

/-- `PlayCall()` (R345). -/
def State.playCall (s : State) : State :=
  { s.push16 (s.cfg.sentinelPlay - 1) with pc := s.playAddr, halted := false }

/-- The play driver's part of a step (R342, R345): count the clocks, and at a play-period boundary call the play routine
if the processor is halted; otherwise that call is skipped (R415). -/
def State.playDriver (s : State) : State :=
  let clock := s.frameClock + s.cost
  if s.cfg.playPeriod ≤ clock then
    let t := { s with frameClock := clock - s.cfg.playPeriod }
    if t.halted then t.playCall else t
  else { s with frameClock := clock }

/-- What a step does after ExecuteOne has completed (R342): the play driver, then the APU tick with the instruction's
clocks. -/
def State.propagate (s : State) : Result :=
  s.playDriver.apuTick s.cost

/-- A step of a running core (R342). -/
def State.runStep (s : State) : Result :=
  match s.executeOne with
  | .next t => t.propagate
  | .fault f => .fault f
  | .refused r => .refused r

/-- The state in which a read of address `a` gives `v`: RAM below 0x8000, above it the byte of the page that the window
of `a` shows, a page that the image is given if it lacks it. This is no operation of the machine; it stands for a
program loaded from outside (DESIGN CHOICE, unsafe, log entry 6). -/
def State.place (a : Word) (v : Byte) (s : State) : State :=
  if a < 0x8000 then s.ramWrite a v
  else
    let im := s.image.getD Image.blank
    { s with
      image := some { im with
        pageCount := max im.pageCount (s.pageOf a + 1)
        rom := im.rom.write (pageSize * s.pageOf a + (a.extractLsb' 0 12).toNat) v } }

/-- The state whose next step fetches the three bytes at PC: the bytes placed, and a core that is started, not halted and
not faulted. -/
def State.placeInstr (b : Byte × Byte × Byte) (s : State) : State :=
  let s := ((s.place s.pc b.1).place (s.pc + 1) b.2.1).place (s.pc + 2) b.2.2
  { s with halted := false, fault := none, started := true }

end Sys2Proof.Machine
end

