-- ==== Sys2Proof/Machine/Step.lean ====
section
/-! DEFINITION. The step of the machine, `Step()` of R342, and the fixed name that places an instruction where a step
fetches it. -/

namespace Sys2Proof.Machine

/-- One step (R342): one ExecuteOne with its clocks propagated. A core with a fault has no step and answers the same
fault again, unchanged (R231, R374); a core with no song started has no run (R346, R404). -/
def step (s : State) : Host.Outcome State Fault Refusal :=
  if s.started then
    match s.fault with
    | some f => .fault (.core f s)
    | none => s.runStep
  else .refused .noSongStarted

/-- `s` with the instruction whose bits are `w` stored at PC, in a core that runs (fixed name). -/
def State.withFetchWord (s : State) (nbits w : Nat) : State :=
  s.placeInstr (tableBytes nbits w)

end Sys2Proof.Machine
end

