-- ==== Sys2Proof/Machine/Mixer.lean ====
section
/-! DEFINITION. The mixer (R330 to R332): one sample from the channels' amplitudes, exactly, in rational arithmetic. It
holds no state. -/

namespace Sys2Proof.Machine

/-- An amplitude, if its channel is enabled (R330). -/
def gate (enabled : Bool) (amp : Nat) : Rat :=
  if enabled then (amp : Rat) else 0

/-- P_CHIP_SCALE[k] (R331). The spec leaves it OPEN: where the record gives no constant for chip k, the factor is a free
value, never skipped (DESIGN CHOICE, safe, log entry 4). -/
def chipScaleOf (scales : List Rat) (k : Nat) : Rat :=
  scales[k]?.getD (Config.openChipScale k)

/-- The product of P_CHIP_SCALE[k] over the chips that a bitmask declares, chip k by bit k (R71, R331). -/
def chipAttenuation (scales : List Rat) (mask : Byte) : Rat :=
  (((List.range 8).filter mask.getLsbD).map (chipScaleOf scales)).prod

/-- The expansion bitmask of the loaded image (R71). -/
def State.expansionMask (s : State) : Byte :=
  match s.image with
  | some im => im.expansion
  | none => 0

/-- `ExpansionTerm()` (R331): 0 when no chip is declared, which is every run, since Load refuses an image that declares
one (R77). The interface for a declared chip set takes its amplitude as a free value. -/
def State.expansionTerm (s : State) : Rat :=
  if s.expansionMask = 0 then 0
  else Config.expansionAmplitude s.expansionMask s.frameClock * chipAttenuation s.cfg.chipScale s.expansionMask

/-- The weighted sum of the five core channels (R330). -/
def Apu.mix (c : Config) (p : Apu) : Rat :=
  c.wPulse * (gate p.pulse1.enabled (p.pulse1.amp c) + gate p.pulse2.enabled (p.pulse2.amp c))
    + c.wTri * gate p.triangle.enabled p.triangle.amp
    + c.wNoise * gate p.noise.enabled p.noise.amp
    + c.wDmc * gate p.dmc.enabled p.dmc.amp

/-- `Sample()` (R330). -/
def State.sample (s : State) : Rat :=
  s.apu.mix s.cfg + s.expansionTerm

end Sys2Proof.Machine
end

