-- ==== Sys2Proof/WellFormed.lean ====
section
/-! DEFINITION. Well-formedness: the launch premise on a configuration (R8), one named check per clause, and the one
condition on an instruction, that BRK is supported only under P_BRK = Standard (R95, R225). An operand of `Instr`
is exactly as wide as its field, so an instruction has no other ill-formed term. -/

namespace Sys2Proof

namespace Config

/-- Every entry of P_NOISE_PERIOD and of P_DMC_RATE is at least 1 (R8). -/
def ratesPositive (c : Config) : Bool :=
  c.noisePeriod.toList.all (1 ≤ ·) && c.dmcRate.toList.all (1 ≤ ·)

/-- P_PLAY_PERIOD ≥ 1 and P_HALT_COST ≥ 1 (R8). -/
def periodsPositive (c : Config) : Bool :=
  decide (1 ≤ c.playPeriod) && decide (1 ≤ c.haltCost)

/-- P_SENTINEL_INIT ≠ P_SENTINEL_PLAY (R8). -/
def sentinelsDiffer (c : Config) : Bool :=
  decide (c.sentinelInit ≠ c.sentinelPlay)

/-- Every P_DUTY entry is 0 or 1 (R8). -/
def dutyBinary (c : Config) : Bool :=
  c.duty.toList.all (fun w => w.toList.all (· ≤ 1))

/-- P_CPU_HZ is a positive rational (R8). -/
def cpuHzPositive (c : Config) : Bool :=
  decide (0 < c.cpuHz)

/-- P_SWEEP_LIMIT is at most 4095 (R8). -/
def sweepLimitFits (c : Config) : Bool :=
  decide (c.sweepLimit ≤ 4095)

/-- P_PULSE_MIN_PERIOD ≥ 1 (R8). -/
def pulseMinPositive (c : Config) : Bool :=
  decide (1 ≤ c.pulseMinPeriod)

/-- Every P_LENGTH entry is at most 255 (R8). -/
def lengthsFit (c : Config) : Bool :=
  c.lengthTable.toList.all (· ≤ 255)

/-- P_RAM_SIZE ≥ 0x200, so the stack page is RAM (R8). -/
def ramHoldsStack (c : Config) : Bool :=
  decide (0x200 ≤ c.ramSize)

/-- P_BANK_BASE + 7 < 0x8000 and P_BANK_BASE > 0x4017 (R8). -/
def bankBaseFits (c : Config) : Bool :=
  decide (c.bankBase + 7 < 0x8000) && decide (0x4017 < c.bankBase)

/-- The launch premise of R8. Its clauses that a value is a natural hold by the fields' types. -/
def wellFormed (c : Config) : Bool :=
  c.ratesPositive && c.periodsPositive && c.sentinelsDiffer && c.dutyBinary && c.cpuHzPositive &&
    c.sweepLimitFits && c.pulseMinPositive && c.lengthsFit && c.ramHoldsStack && c.bankBaseFits

end Config

/-- Whether an instruction is supported under a configuration: every row of R95 is, but for BRK under P_BRK = Fault. -/
def Instr.wellFormed (c : Config) (i : Instr) : Bool :=
  match c.brk with
  | .standard => true
  | .fault => i != .brk

end Sys2Proof
end

