-- ==== Sys2Proof/Machine/HostOps.lean ====
section
/-! DEFINITION. The host operations: Load (R70 to R77, R346), StartSong (R347, R400), NextSample (R341), the pull of N
samples (R344), the play flag (R348), the queries (R349) and the supply of a configuration (R8, R404); and one
transition over all of them. A refused or failed operation leaves the state unchanged (R381). -/

namespace Sys2Proof.Machine

/-! ### Load -/

/-- The magic signature (R70). -/
def magic : List Byte :=
  [0x4E, 0x45, 0x53, 0x4D, 0x1A]

/-- The size of the header (R71). -/
def headerSize : Nat :=
  0x80

/-- The byte of a file at an offset. -/
def fileByte (file : List Byte) (k : Nat) : Byte :=
  file.getD k 0

/-- The little-endian word of a file at an offset (R71). -/
def fileWord (file : List Byte) (k : Nat) : Word :=
  wordOf (fileByte file k) (fileByte file (k + 1))

/-- The bank overrides ov[0..7] (R71). -/
def fileOverrides (file : List Byte) : Vector Byte 8 :=
  #v[fileByte file 0x70, fileByte file 0x71, fileByte file 0x72, fileByte file 0x73,
    fileByte file 0x74, fileByte file 0x75, fileByte file 0x76, fileByte file 0x77]

/-- Whether an override is nonzero (R73). -/
def isBanked (ov : Vector Byte 8) : Bool :=
  ov.toList.any (· != 0)

/-- The length of the zero prefix before the data (R73). -/
def prefixLength (banked : Bool) (loadAddr : Word) : Nat :=
  if banked then (loadAddr &&& 0x0FFF).toNat else loadAddr.toNat - 0x8000

/-- The cells of data bytes from index `k` on, zeroes unlisted. -/
def dataCells : Nat → List Byte → Memory
  | _, [] => []
  | k, b :: bs => if b = Memory.unlisted then dataCells (k + 1) bs else (k, b) :: dataCells (k + 1) bs

/-- The number of 4096-byte pages that hold `n` bytes, at least one (R73). -/
def pagesFor (n : Nat) : Nat :=
  max 1 ((n + (pageSize - 1)) / pageSize)

/-- The image that a file's header and data make (R71 to R73). -/
def imageOf (file : List Byte) : Image :=
  let data := file.drop headerSize
  let ov := fileOverrides file
  let start := prefixLength (isBanked ov) (fileWord file 0x08)
  { songCount := fileByte file 0x06
    startingSong := fileByte file 0x07
    loadAddr := fileWord file 0x08
    initAddr := fileWord file 0x0A
    playAddr := fileWord file 0x0C
    name := (file.drop 0x0E).take 32
    artist := (file.drop 0x2E).take 32
    copyright := (file.drop 0x4E).take 32
    overrides := ov
    expansion := fileByte file 0x7B
    pageCount := pagesFor (start + data.length)
    rom := dataCells start data }

/-- The one way a Load fails that is no refusal (R70, R381). -/
inductive LoadError where
  /-- The magic signature is wrong. Safe: the spec's own result. -/
  | formatError
  deriving DecidableEq, Repr

/-- Why an image is refused, if it is (R76, R77). -/
def imageRefusal (im : Image) : Option Refusal :=
  if !isBanked im.overrides && decide (im.loadAddr < 0x8000) then some .imageBelowWindows
  else if im.songCount = 0 then some .imageNoSongs
  else if im.expansion ≠ 0 then some .imageExpansion
  else none

/-- `Load(bytes)` (R70 to R77, R346). A loaded image replaces the old one whole; the core's state is then undefined until
StartSong, so the model has no song started (log entry 5). Its other fields keep their values: until StartSong,
`CurrentSong()` and `IsFaulted()` answer the previous run's song and fault, and `SetPlaying` is accepted (DESIGN CHOICE,
unsafe, log entry 21). -/
def load (file : List Byte) (s : State) : Host.Outcome State LoadError Refusal :=
  if file.take 5 ≠ magic then .fault .formatError
  else if file.length < headerSize then .refused .imageTooShort
  else
    match imageRefusal (imageOf file) with
    | some r => .refused r
    | none => .next { s with image := some (imageOf file), started := false }

/-! ### StartSong -/

/-- The default selection of window `i` (R74). -/
def defaultPage (ov : Vector Byte 8) (i : Fin 8) : Nat :=
  if ov[i] ≠ 0 then ov[i].toNat else i

/-- The default selection (R74). -/
def defaultSelect (ov : Vector Byte 8) : Vector Nat 8 :=
  #v[defaultPage ov 0, defaultPage ov 1, defaultPage ov 2, defaultPage ov 3,
    defaultPage ov 4, defaultPage ov 5, defaultPage ov 6, defaultPage ov 7]

/-- The clamp of a song index (R347): the source's OutOfRangeSelection is no error. -/
def clampSong (n : Int) (count : Byte) : Nat :=
  (min (max n 1) count.toNat).toNat

/-- The song start (R400), step by step, on an image and a song index already clamped. -/
def State.songStart (im : Image) (n : Nat) (s : State) : State :=
  let cleared : State :=
    { s with
      fault := none                                        -- 1
      ram := []                                            -- 2
      select := defaultSelect im.overrides                 -- 3
      a := 0, x := 0, y := 0, sp := 0xFF                   -- 4
      flags := Flags.reset, cost := 0, halted := false
      apu := Apu.reset                                     -- 5
      debt := 0, frameClock := 0 }                         -- 6
  let enabled : State := { cleared with apu := apuWrite s.cfg 0x4015 s.cfg.apuReset4015 cleared.apu }  -- 7
  let called : State :=
    { enabled with a := BitVec.ofNat 8 (n - 1), x := 0 }.push16 (s.cfg.sentinelInit - 1)               -- 8, 9
  { called with pc := im.initAddr, currentSong := n, playing := true, started := true }                -- 10

/-- `StartSong(n)` (R347). It is refused with no image, and with a configuration that breaks R8. -/
def startSong (n : Int) (s : State) : Result :=
  match s.image with
  | none => .refused .noImage
  | some im =>
    if s.cfg.wellFormed then .next (s.songStart im (clampSong n im.songCount)) else .refused .configIllFormed

/-- The supply of a configuration (R8, R404 step 1; log entry 19). No song is started after it, and its other fields keep
their values, as after `load` (DESIGN CHOICE, unsafe, log entry 21). -/
def configure (c : Config) (s : State) : Result :=
  if c.wellFormed then .next { s with cfg := c, started := false } else .refused .configIllFormed

/-! ### NextSample -/

/-- R341's loop, for at most `fuel` steps. -/
def payDebt : Nat → State → Result
  | 0, s => .next s
  | fuel + 1, s =>
    if s.debt ≤ 0 then .next s
    else
      match step s with
      | .next t => payDebt fuel { t with debt := t.debt - t.cost }
      | .fault f => .fault f
      | .refused r => .refused r

/-- What NextSample answers when it answers a sample: the sample, and the state it leaves. -/
structure Sampled where
  sample : Rat
  state : State
  deriving DecidableEq, Repr

/-- Whether a host rate is a positive integer (R340). -/
def isSampleRate (rate : Rat) : Bool :=
  decide (0 < rate) && rate.isInt

/-- The clocks a sample owes at a host rate (R340). -/
def quota (c : Config) (rate : Rat) : Rat :=
  c.cpuHz / rate

/-- `NextSample(rate)` (R341). The host may ask for any rational rate; one that is not a positive integer is refused (R381).
A step costs at least one clock (R341), so a fuel of the debt, rounded up, ends the loop. -/
def nextSample (rate : Rat) (s : State) : Host.Outcome Sampled Fault Refusal :=
  if !isSampleRate rate then .refused .rateNotPositiveInteger
  else if !s.started then .refused .noSongStarted
  else
    match s.fault with
    | some f => .fault (.core f s)
    | none =>
      if !s.playing then .next ⟨0, s⟩
      else
        let owed : State := { s with debt := s.debt + quota s.cfg rate }
        match payDebt owed.debt.ceil.toNat owed with
        | .next t => .next ⟨t.sample, t⟩
        | .fault f => .fault f
        | .refused r => .refused r

/-- What a pull of N samples answers: the samples, the fault that ended it, if any (R344), the refusal that ended it, if
any (DESIGN CHOICE, log entry 23), and the last state, which is the stopped state of a fault. -/
structure Pulled where
  samples : List Rat
  state : State
  fault : Option CoreFault
  refusal : Option Refusal
  deriving DecidableEq, Repr

/-- A host pull of N samples (R344): N successive requests, up to the first fault. R344 does not say what a pull answers
where a request is refused: the model ends it at the first refusal and answers that refusal once (DESIGN CHOICE, safe, log
entry 23). -/
def pull (rate : Rat) : Nat → State → Pulled
  | 0, s => ⟨[], s, none, none⟩
  | n + 1, s =>
    match nextSample rate s with
    | .next r =>
      let p := pull rate n r.state
      { p with samples := r.sample :: p.samples }
    | .fault (.core f t) => ⟨[], t, some f, none⟩
    | .refused r => ⟨[], s, none, some r⟩

/-! ### The play flag and the queries -/

/-- `SetPlaying(b)` (R348). It is accepted also where no song is started (DESIGN CHOICE, log entry 21). -/
def setPlaying (b : Bool) (s : State) : State :=
  { s with playing := b }

/-- `CurrentSong()` (R349). Where no song is started it answers the last one (DESIGN CHOICE, log entry 21). -/
def currentSongOf (s : State) : Nat :=
  s.currentSong

/-- A header string, cut at its first zero byte (R349). -/
def cutString (bs : List Byte) : List Byte :=
  bs.takeWhile (· != 0)

/-- `Metadata()` (R349): name, artist and copyright. With no image loaded, where the spec says nothing, it answers `none`
(DESIGN CHOICE, safe, log entry 22). -/
def metadata (s : State) : Option (List Byte × List Byte × List Byte) :=
  s.image.map (fun im => (cutString im.name, cutString im.artist, cutString im.copyright))

/-- `IsFaulted()` (R349). Where no song is started it answers the last run's fault (DESIGN CHOICE, log entry 21). -/
def isFaulted (s : State) : Option CoreFault :=
  s.fault

/-! ### The block as one machine over its host operations (R350, R351) -/

/-- The host operations that change the block. -/
inductive HostOp where
  | configure (c : Config)
  | load (file : List Byte)
  | startSong (n : Int)
  | nextSample (rate : Rat)
  | setPlaying (b : Bool)
  deriving DecidableEq, Repr

/-- What a host operation answers. -/
inductive Reply where
  | done
  | sample (v : Rat)
  | fault (f : CoreFault)
  | formatError
  | refused (r : Refusal)
  deriving DecidableEq, Repr

/-- The answer and the next state of an outcome of the core, from the state `s`. -/
def replyOf (s : State) : Result → Reply × State
  | .next t => (.done, t)
  | .fault (.core f t) => (.fault f, t)
  | .refused r => (.refused r, s)

/-- One host operation: a function of the operation and the state (R350). -/
def hostStep (op : HostOp) (s : State) : Reply × State :=
  match op with
  | .configure c => replyOf s (configure c s)
  | .load file =>
    match load file s with
    | .next t => (.done, t)
    | .fault .formatError => (.formatError, s)
    | .refused r => (.refused r, s)
  | .startSong n => replyOf s (startSong n s)
  | .nextSample rate =>
    match nextSample rate s with
    | .next r => (.sample r.sample, r.state)
    | .fault (.core f t) => (.fault f, t)
    | .refused r => (.refused r, s)
  | .setPlaying b => (.done, setPlaying b s)

/-- A run (R351): the answers to a sequence of host operations, and the state they leave. -/
def hostRun : List HostOp → State → List Reply × State
  | [], s => ([], s)
  | op :: ops, s =>
    let r := hostStep op s
    let rest := hostRun ops r.2
    (r.1 :: rest.1, rest.2)

end Sys2Proof.Machine
end

