-- ==== Sys2Proof/Safety.lean ====
section
/-! DEFINITION. The terms that claims are stated in: what a completed instruction leaves (`State.completed`), the
invariant of a running machine (`State.Inv`), and a run without a stop (`runsSafely`). -/

namespace Sys2Proof.Machine

/-! ### A completed instruction -/

/-- The extra clocks of an instruction (R232, R233), from the page-cross column of R95's table. -/
def Instr.extraClocks (i : Instr) (s : State) : Nat :=
  if i.pageCross && (s.resolve i.operand).cross then 1 else 0

/-- The state in which an instruction that does not write PC leaves the machine, `t` being its effect on the registers,
the flags and memory: PC past the instruction (R22), the cost R230 gives, and no stall pending. The clocks are
those of R95's table. -/
def State.completed (i : Instr) (s t : State) : State :=
  { t with
    pc := s.pc + BitVec.ofNat 16 i.operand.length
    cost := i.baseClocks + Instr.extraClocks i s + s.apu.dmc.stallPending
    apu := { t.apu with dmc := { t.apu.dmc with stallPending := 0 } } }

/-- The state in which a transfer of control to `target` leaves the machine, at a cost of `extra` clocks beyond R95's. -/
def State.transferred (i : Instr) (s : State) (target : Word) (extra : Nat) (t : State) : State :=
  { t with
    pc := target
    cost := i.baseClocks + extra + s.apu.dmc.stallPending
    apu := { t.apu with dmc := { t.apu.dmc with stallPending := 0 } } }

/-- The instruction stops at the fault `f` with nothing changed but the fault flag (R374). -/
def State.stopsAt (s : State) (f : CoreFault) : Result :=
  .fault (.core f { s with fault := some f })

/-- The opcodes and modes of a mnemonic, as its rule's Encoding line lists them (files 41 to 45). -/
def encodedAs (m : Mnemonic) (forms : List (Byte × Mode)) : Prop :=
  ∀ i : Instr, i.mnemonic = m ↔ (i.opcode, i.operand.mode) ∈ forms

/-! ### The invariant -/

/-- RAM in canonical form, every listed cell within P_RAM_SIZE (R33). -/
def RamCanonical (s : State) : Prop :=
  s.ram.wf ∧ ∀ p ∈ s.ram, p.1 < s.cfg.ramSize

/-- The image's pages in canonical form, every listed cell within them (R34). -/
def ImageCanonical (s : State) : Prop :=
  ∀ im ∈ s.image, im.rom.wf ∧ ∀ p ∈ im.rom, p.1 < pageSize * im.pageCount

/-- A pulse channel in range (R35, R283): only a sweep sets bit 11 of the period, and only up to P_SWEEP_LIMIT; the length
is within P_LENGTH, the timer within a reload (log entry 13). -/
def PulseInRange (c : Config) (p : Pulse) : Prop :=
  (c.sweepLimit < 2048 → p.period.toNat < 2048) ∧ p.length ≤ 255 ∧ p.timer < 8192

/-- The noise channel in range (R35, R296): the shift register is never 0. -/
def NoiseInRange (c : Config) (n : Noise) : Prop :=
  n.lfsr ≠ 0 ∧ n.length ≤ 255 ∧ ∃ k : Fin 16, n.timer < c.noisePeriod[k]

/-- The DMC in range (R35, R307, R308): the level within [0, 63], and the fetch address at or above 0x8000 while bytes
remain. -/
def DmcInRange (c : Config) (d : Dmc) : Prop :=
  d.level ≤ 63 ∧ d.bytesRemaining ≤ 4081 ∧ d.bitsLeft ≤ 8 ∧ (∃ k : Fin 16, d.timer < c.dmcRate[k]) ∧
    (0 < d.bytesRemaining → 0x8000 ≤ d.curAddr)

/-- The frame sequencer in range (R260, R261): the step is one of its mode's, and the accumulator has not passed the
step's threshold. -/
def SeqInRange (c : Config) (q : FrameSeq) : Prop :=
  q.step < q.mode.steps ∧ q.acc ≤ threshold c q.mode q.step

/-- The APU in range (R35). -/
def ApuInRange (c : Config) (p : Apu) : Prop :=
  PulseInRange c p.pulse1 ∧ PulseInRange c p.pulse2 ∧ p.triangle.length ≤ 255 ∧ NoiseInRange c p.noise ∧
    DmcInRange c p.dmc ∧ SeqInRange c p.seq

/-- The invariant of a running machine: a configuration that R8 allows, memory in canonical form, the APU in range. -/
structure State.Inv (s : State) : Prop where
  configured : s.cfg.wellFormed = true
  ram : RamCanonical s
  image : ImageCanonical s
  apu : ApuInRange s.cfg s.apu

/-! ### Frames -/

/-- Whether an address reads the same RAM cell as `ea` (R55). -/
def aliases (s : State) (ea a : Word) : Prop :=
  a < 0x8000 ∧ a.toNat % s.cfg.ramSize = ea.toNat % s.cfg.ramSize

/-- The addresses whose bytes a write to `ea` may change: the mirrors of a RAM cell, the window of a bank-select register,
nothing otherwise (R57, R63). -/
def mayChange (s : State) (ea a : Word) : Prop :=
  (ea < 0x2000 ∧ aliases s ea a) ∨
    (0x2000 ≤ ea ∧ s.isBankAddr ea = true ∧ 0x8000 ≤ a ∧ (windowOf a).toNat = ea.toNat - s.cfg.bankBase)

/-- Two APUs that differ at most in the pending DMC stall, which the completion of an instruction takes (R230). -/
def sameButStall (p q : Apu) : Prop :=
  q = { p with dmc := { p.dmc with stallPending := q.dmc.stallPending } }

/-- The state with another stored B. -/
def State.setB (b : Bool) (s : State) : State :=
  { s with flags := { s.flags with b := b } }

/-! ### Iteration -/

/-- `f` applied `n` times. -/
def iterate {α : Type} (f : α → α) : Nat → α → α
  | 0, x => x
  | n + 1, x => iterate f n (f x)

/-- `n` DMC clocks in a row, up to the first fault (R307, R342). -/
def dmcClocks : Nat → State → Result
  | 0, s => .next s
  | n + 1, s =>
    match s.dmcClock with
    | .next t => dmcClocks n t
    | .fault f => .fault f
    | .refused r => .refused r

/-! ### Runs -/

/-- `k` steps from `s` end in no fault and no refusal. -/
def runsSafely : Nat → State → Prop
  | 0, _ => True
  | k + 1, s => ∃ t, step s = .next t ∧ runsSafely k t

end Sys2Proof.Machine
end

