-- ==== Sys2Proof/Certificates/Slice0/Obligations.lean ====
section
/-! DEFINITION. The statements for the provers. Each docstring names the rules of the spec it formalises. Every statement
is about every state, so about every value of every parameter of R7's record. -/

open Sys2Proof Sys2Proof.Machine

/-! ### Encoding -/

/-- Decoding inverts encoding, for every instruction at every value of its operand, whatever bytes follow; and encoding
inverts decoding: bytes that decode are the encoding of what they decode to, followed by the bytes left over
(30_encoding.md R90, R91, R92, R95). -/
def Obligations.DecodeInvertsEncode : Prop :=
  (∀ (i : Instr) (rest : List Byte), decode (encode i ++ rest) = .ok (i, rest)) ∧
  ∀ (bytes rest : List Byte) (i : Instr), decode bytes = .ok (i, rest) → bytes = encode i ++ rest

/-- Bytes written out from the opcode map and the syntax examples (R95, R98) decode to the instructions they stand for,
at least one of every family. -/
def Obligations.WordsDecodeAsTabled : Prop :=
  decode [0xE8] = .ok (.inx, []) ∧ decode [0x0A] = .ok (.aslAcc, []) ∧
  decode [0xA9, 0x10] = .ok (.ldaImm 0x10, []) ∧ decode [0xB6, 0x10] = .ok (.ldxZpy 0x10, []) ∧
  decode [0xAD, 0x34, 0x12] = .ok (.ldaAbs 0x1234, []) ∧ decode [0x8D, 0x00, 0x40] = .ok (.staAbs 0x4000, []) ∧
  decode [0x6C, 0x00, 0x02] = .ok (.jmpInd 0x0200, []) ∧ decode [0xB1, 0x20] = .ok (.ldaIndy 0x20, []) ∧
  decode [0xD0, 0xFB] = .ok (.bne 0xFB, []) ∧ decode [0x48] = .ok (.pha, []) ∧
  decode [0x61, 0x20] = .ok (.adcIndx 0x20, []) ∧ decode [0x20, 0x00, 0x90] = .ok (.jsr 0x9000, []) ∧
  decode [0x38] = .ok (.sec, []) ∧ decode [0xEA] = .ok (.nop, [])

/-- R97, R91: every byte value decodes either to the instruction of one row of R95's table or to UnsupportedOpcode, and the
unsupported ones number 105 (R96); the length of an instruction is a function of its opcode byte, through its addressing
mode: 1 for IMP and ACC, 2 for IMM, ZP, ZPX, ZPY, REL, INDX and INDY, 3 for ABS, ABSX, ABSY and IND. -/
def Obligations.EveryByteDecodesOrIsUnsupported : Prop :=
  (∀ op b1 b2 : Byte,
    (∃ r ∈ opcodeTable, r.opcode = op ∧ (∀ q ∈ opcodeTable, q.opcode = op → q.mnemonic = r.mnemonic ∧ q.mode = r.mode) ∧
      ∃ i rest, decode [op, b1, b2] = .ok (i, rest) ∧ i.opcode = op ∧ i.mnemonic = r.mnemonic ∧
        i.operand.mode = r.mode) ∨
    ((∀ r ∈ opcodeTable, r.opcode ≠ op) ∧ decode [op, b1, b2] = .error (.unsupportedOpcode op))) ∧
  ((List.range 256).filter (fun k => (findRow (BitVec.ofNat 8 k)).isNone)).length = 105 ∧
  ∀ i : Instr, ∃ n : Nat, (encode i).length = n ∧ opcodeLength i.opcode = some n ∧
    (i.operand.mode ∈ [.imp, .acc] → n = 1) ∧
    (i.operand.mode ∈ [.imm, .zp, .zpx, .zpy, .rel, .indx, .indy] → n = 2) ∧
    (i.operand.mode ∈ [.abs, .absx, .absy, .ind] → n = 3)

/-! ### The instruction cycle -/

/-- R231, R342: a core that runs and is not halted, whose bytes at PC decode to `i`, steps by `exec i`, then the play
driver, then the APU tick with the instruction's clocks; a stop of `exec` ends the step. -/
def Obligations.StepRunsTheDecodedInstruction : Prop :=
  ∀ (s : State) (i : Instr) (b0 b1 b2 : Byte) (rest : List Byte),
    s.started = true → s.fault = none → s.halted = false →
    decode [b0, b1, b2] = .ok (i, rest) →
    s.memRead s.pc = .ok b0 →
    (2 ≤ i.operand.length → s.memRead (s.pc + 1) = .ok b1) →
    (3 ≤ i.operand.length → s.memRead (s.pc + 2) = .ok b2) →
    step s = match exec i s with
      | .next t => t.playDriver.apuTick t.cost
      | .fault f => .fault f
      | .refused r => .refused r

/-- R231, R390: a halted core fetches nothing; its step costs P_HALT_COST and the pending stall, and goes on to the play
driver and the APU tick. -/
def Obligations.HaltedStepFetchesNothing : Prop :=
  ∀ s : State, s.started = true → s.fault = none → s.halted = true →
    step s =
      let clocks := s.cfg.haltCost + s.apu.dmc.stallPending
      State.apuTick clocks (State.playDriver { s with
        cost := clocks
        apu := { s.apu with dmc := { s.apu.dmc with stallPending := 0 } } })

/-- R371, R374: the fetch of an opcode that has no row faults with its address and byte, before any operand byte is read,
and so does the fetch of 0x00 under P_BRK = Fault; no state other than the fault flag changes. -/
def Obligations.UnsupportedOpcodeFaults : Prop :=
  ∀ (s : State) (op : Byte), s.started = true → s.fault = none → s.halted = false →
    s.memRead s.pc = .ok op → (∀ r ∈ opcodeTable, r.opcode ≠ op) ∨ (op = 0x00 ∧ s.cfg.brk = .fault) →
    step s = .fault (.core (.unsupportedOpcode s.pc op) { s with fault := some (.unsupportedOpcode s.pc op) })

/-- R374: a faulted core has no step, and NextSample answers its fault, both without changing state. -/
def Obligations.FaultedCoreIsStuck : Prop :=
  ∀ (s : State) (f : CoreFault) (rate : Nat), s.started = true → s.fault = some f → 0 < rate →
    step s = .fault (.core f s) ∧ nextSample rate s = .fault (.core f s) ∧
      hostStep (.nextSample rate) s = (.fault f, s)

/-- The model's own loading of a program (DESIGN CHOICE, log entry 6): the instruction that a table word stands for is what the next
fetch reads, and the core that fetches it runs. -/
def Obligations.PlacedInstructionIsFetched : Prop :=
  ∀ (s : State) (nbits w : Nat) (i : Instr), s.cfg.wellFormed = true → RamCanonical s → ImageCanonical s →
    decodeTableWord nbits w = some i →
    (s.withFetchWord nbits w).fetch = .ok i ∧ (s.withFetchWord nbits w).pc = s.pc ∧
    (s.withFetchWord nbits w).started = true ∧ (s.withFetchWord nbits w).fault = none ∧
    (s.withFetchWord nbits w).halted = false

/-- R142, R385: every supported instruction completes at any time. With no parameter set to Fault that an instruction could
meet, each of the 151 rows answers a next state. -/
def Obligations.EveryInstructionCompletes : Prop :=
  ∀ (i : Instr) (s : State), s.cfg.bankOor = .zero → s.cfg.unmappedWrite = .ignore → s.cfg.decimal = .binary →
    i.wellFormed s.cfg = true → ∃ t, exec i s = .next t

/-! ### Results -/

/-- R130 to R132, R142: a load sets its register to the operand, N and Z by setNZ, and nothing else but PC and the cost; a
read that faults stops it with nothing changed. -/
def Obligations.LoadsSetRegisterAndNZ : Prop :=
  encodedAs .lda [(0xA9, .imm), (0xA5, .zp), (0xB5, .zpx), (0xAD, .abs), (0xBD, .absx), (0xB9, .absy), (0xA1, .indx),
    (0xB1, .indy)] ∧
  encodedAs .ldx [(0xA2, .imm), (0xA6, .zp), (0xB6, .zpy), (0xAE, .abs), (0xBE, .absy)] ∧
  encodedAs .ldy [(0xA0, .imm), (0xA4, .zp), (0xB4, .zpx), (0xAC, .abs), (0xBC, .absx)] ∧
  ∀ (i : Instr) (s : State),
    (∀ f, s.readOperand i.operand = .error f → i.mnemonic ∈ [.lda, .ldx, .ldy] → exec i s = s.stopsAt f) ∧
    ∀ m : Byte, s.readOperand i.operand = .ok m →
      let nz : Flags := { s.flags with n := m.getLsbD 7, z := decide (m = 0) }
      (i.mnemonic = .lda → exec i s = .next (State.completed i s { s with a := m, flags := nz })) ∧
      (i.mnemonic = .ldx → exec i s = .next (State.completed i s { s with x := m, flags := nz })) ∧
      (i.mnemonic = .ldy → exec i s = .next (State.completed i s { s with y := m, flags := nz }))

/-- R133 to R135, R142: a store writes its register to its location, reads nothing there and writes no flag; a write that
faults stops it with nothing changed. -/
def Obligations.StoresWriteTheirRegister : Prop :=
  encodedAs .sta [(0x85, .zp), (0x95, .zpx), (0x8D, .abs), (0x9D, .absx), (0x99, .absy), (0x81, .indx), (0x91, .indy)] ∧
  encodedAs .stx [(0x86, .zp), (0x96, .zpy), (0x8E, .abs)] ∧
  encodedAs .sty [(0x84, .zp), (0x94, .zpx), (0x8C, .abs)] ∧
  ∀ (i : Instr) (s : State) (ea : Word), (s.resolve i.operand).loc = .mem ea →
    let store (r : Byte) : Prop :=
      (∀ t, s.memWrite ea r = .ok t → exec i s = .next (State.completed i s t)) ∧
      (∀ f, s.memWrite ea r = .error f → exec i s = s.stopsAt f)
    (i.mnemonic = .sta → store s.a) ∧ (i.mnemonic = .stx → store s.x) ∧ (i.mnemonic = .sty → store s.y)

/-- R136 to R141: a transfer copies its register and sets N and Z, but for TXS, which writes no flag. -/
def Obligations.TransfersCopyRegisters : Prop :=
  encodedAs .tax [(0xAA, .imp)] ∧
  encodedAs .tay [(0xA8, .imp)] ∧
  encodedAs .txa [(0x8A, .imp)] ∧
  encodedAs .tya [(0x98, .imp)] ∧
  encodedAs .tsx [(0xBA, .imp)] ∧
  encodedAs .txs [(0x9A, .imp)] ∧
  ∀ s : State,
    let nz (v : Byte) : Flags := { s.flags with n := v.getLsbD 7, z := decide (v = 0) }
    exec .tax s = .next (State.completed .tax s { s with x := s.a, flags := nz s.a }) ∧
    exec .tay s = .next (State.completed .tay s { s with y := s.a, flags := nz s.a }) ∧
    exec .txa s = .next (State.completed .txa s { s with a := s.x, flags := nz s.x }) ∧
    exec .tya s = .next (State.completed .tya s { s with a := s.y, flags := nz s.y }) ∧
    exec .tsx s = .next (State.completed .tsx s { s with x := s.sp, flags := nz s.sp }) ∧
    exec .txs s = .next (State.completed .txs s { s with sp := s.x })

/-- R150 to R153: PHA and PHP write one byte at 0x0100 + S and lower S; PLA and PLP raise S and take the byte there. PHP
pushes bits 5 and 4 as 1; PLP loads every flag but U. None of them stops. -/
def Obligations.StackInstructionsPushAndPull : Prop :=
  encodedAs .pha [(0x48, .imp)] ∧
  encodedAs .php [(0x08, .imp)] ∧
  encodedAs .pla [(0x68, .imp)] ∧
  encodedAs .plp [(0x28, .imp)] ∧
  ∀ s : State,
    let cell (k : Byte) : Nat := (0x0100 + k.setWidth 16 : Word).toNat % s.cfg.ramSize
    let p : Byte := BitVec.ofBool s.flags.n ++ BitVec.ofBool s.flags.v ++ (0b11#2) ++ BitVec.ofBool s.flags.d ++
      BitVec.ofBool s.flags.i ++ BitVec.ofBool s.flags.z ++ BitVec.ofBool s.flags.c
    let v : Byte := s.ram.read (cell (s.sp + 1))
    exec .pha s = .next (State.completed .pha s { s with ram := s.ram.write (cell s.sp) s.a, sp := s.sp - 1 }) ∧
    exec .php s = .next (State.completed .php s { s with ram := s.ram.write (cell s.sp) p, sp := s.sp - 1 }) ∧
    exec .pla s = .next (State.completed .pla s
      { s with sp := s.sp + 1, a := v, flags := { s.flags with n := v.getLsbD 7, z := decide (v = 0) } }) ∧
    exec .plp s = .next (State.completed .plp s
      { s with
        sp := s.sp + 1
        flags := { n := v.getLsbD 7, v := v.getLsbD 6, b := v.getLsbD 4, d := v.getLsbD 3, i := v.getLsbD 2
                   z := v.getLsbD 1, c := v.getLsbD 0 } })

/-- R160, R161, R170, R171: the result, the carry, N and Z of ADC and SBC, and V by the formula that P_V_MODE and
P_SBC_V_OPERAND select. With D = 1 under P_DECIMAL = Fault they fault before the operand is read; otherwise D is ignored
and a read that faults stops them with nothing changed. -/
def Obligations.AddAndSubtractResults : Prop :=
  encodedAs .adc [(0x69, .imm), (0x65, .zp), (0x75, .zpx), (0x6D, .abs), (0x7D, .absx), (0x79, .absy), (0x61, .indx),
    (0x71, .indy)] ∧
  encodedAs .sbc [(0xE9, .imm), (0xE5, .zp), (0xF5, .zpx), (0xED, .abs), (0xFD, .absx), (0xF9, .absy), (0xE1, .indx),
    (0xF1, .indy)] ∧
  ∀ (i : Instr) (s : State),
    (i.mnemonic ∈ [.adc, .sbc] → s.cfg.decimal = .fault → s.flags.d = true →
      exec i s = s.stopsAt (.decimalUnsupported s.pc)) ∧
    ((s.cfg.decimal = .fault → s.flags.d = false) →
      (∀ f, s.readOperand i.operand = .error f → i.mnemonic ∈ [.adc, .sbc] → exec i s = s.stopsAt f) ∧
      ∀ m : Byte, s.readOperand i.operand = .ok m →
        (i.mnemonic = .adc →
          let sum := s.a.toNat + m.toNat + s.flags.c.toNat
          let r : Byte := BitVec.ofNat 8 sum
          let v := match s.cfg.vMode with
            | .literal => decide (m &&& 0x80 = r &&& 0x80)
            | .textbook => decide (~~~(s.a ^^^ m) &&& (s.a ^^^ r) &&& 0x80 ≠ 0)
          exec i s = .next (State.completed i s { s with
            a := r
            flags := { s.flags with n := r.getLsbD 7, z := decide (r = 0), c := decide (0xFF < sum), v := v } })) ∧
        (i.mnemonic = .sbc →
          let diff : Int := s.a.toNat - m.toNat - (1 - s.flags.c.toNat)
          let r : Byte := BitVec.ofInt 8 diff
          let mop := if s.cfg.sbcVOperand = .m then m else ~~~m
          let v := match s.cfg.vMode with
            | .literal => decide (mop &&& 0x80 = r &&& 0x80)
            | .textbook => decide ((s.a ^^^ m) &&& (s.a ^^^ r) &&& 0x80 ≠ 0)
          exec i s = .next (State.completed i s { s with
            a := r
            flags := { s.flags with n := r.getLsbD 7, z := decide (r = 0), c := decide (0 ≤ diff), v := v } })))

/-- R162 to R164, R142: AND, ORA and EOR; a read that faults stops them with nothing changed. -/
def Obligations.LogicResults : Prop :=
  encodedAs .and [(0x29, .imm), (0x25, .zp), (0x35, .zpx), (0x2D, .abs), (0x3D, .absx), (0x39, .absy), (0x21, .indx),
    (0x31, .indy)] ∧
  encodedAs .ora [(0x09, .imm), (0x05, .zp), (0x15, .zpx), (0x0D, .abs), (0x1D, .absx), (0x19, .absy), (0x01, .indx),
    (0x11, .indy)] ∧
  encodedAs .eor [(0x49, .imm), (0x45, .zp), (0x55, .zpx), (0x4D, .abs), (0x5D, .absx), (0x59, .absy), (0x41, .indx),
    (0x51, .indy)] ∧
  ∀ (i : Instr) (s : State),
    (∀ f, s.readOperand i.operand = .error f → i.mnemonic ∈ [.and, .ora, .eor] → exec i s = s.stopsAt f) ∧
    ∀ m : Byte, s.readOperand i.operand = .ok m →
      let done (r : Byte) : Result := .next (State.completed i s
        { s with a := r, flags := { s.flags with n := r.getLsbD 7, z := decide (r = 0) } })
      (i.mnemonic = .and → exec i s = done (s.a &&& m)) ∧
      (i.mnemonic = .ora → exec i s = done (s.a ||| m)) ∧
      (i.mnemonic = .eor → exec i s = done (s.a ^^^ m))

/-- R165 to R168, R142: a compare sets C, Z and N from the register and the operand; BIT sets Z from A & M, N and V from M.
No register changes; a read that faults stops them with nothing changed. -/
def Obligations.CompareAndBitFlags : Prop :=
  encodedAs .cmp [(0xC9, .imm), (0xC5, .zp), (0xD5, .zpx), (0xCD, .abs), (0xDD, .absx), (0xD9, .absy), (0xC1, .indx),
    (0xD1, .indy)] ∧
  encodedAs .cpx [(0xE0, .imm), (0xE4, .zp), (0xEC, .abs)] ∧
  encodedAs .cpy [(0xC0, .imm), (0xC4, .zp), (0xCC, .abs)] ∧
  encodedAs .bit [(0x24, .zp), (0x2C, .abs)] ∧
  ∀ (i : Instr) (s : State),
    (∀ f, s.readOperand i.operand = .error f → i.mnemonic ∈ [.cmp, .cpx, .cpy, .bit] → exec i s = s.stopsAt f) ∧
    ∀ m : Byte, s.readOperand i.operand = .ok m →
      let cmp (r : Byte) : Result := .next (State.completed i s { s with flags := { s.flags with
        c := decide (m.toNat ≤ r.toNat), z := decide (r = m), n := (r - m).getLsbD 7 } })
      (i.mnemonic = .cmp → exec i s = cmp s.a) ∧
      (i.mnemonic = .cpx → exec i s = cmp s.x) ∧
      (i.mnemonic = .cpy → exec i s = cmp s.y) ∧
      (i.mnemonic = .bit → exec i s = .next (State.completed i s { s with flags := { s.flags with
        z := decide (s.a &&& m = 0), n := m.getLsbD 7, v := m.getLsbD 6 } }))

/-- R180 to R185, R142: INC and DEC write the byte one more or one less to the location they read, and a read or a write
that faults stops them with nothing changed; INX, INY, DEX and DEY change their register; each sets N and Z of its result
and no other flag. -/
def Obligations.IncrementsAndDecrements : Prop :=
  encodedAs .inc [(0xE6, .zp), (0xF6, .zpx), (0xEE, .abs), (0xFE, .absx)] ∧
  encodedAs .dec [(0xC6, .zp), (0xD6, .zpx), (0xCE, .abs), (0xDE, .absx)] ∧
  encodedAs .inx [(0xE8, .imp)] ∧
  encodedAs .iny [(0xC8, .imp)] ∧
  encodedAs .dex [(0xCA, .imp)] ∧
  encodedAs .dey [(0x88, .imp)] ∧
  ∀ s : State,
    let nz (r : Byte) : Flags := { s.flags with n := r.getLsbD 7, z := decide (r = 0) }
    (∀ (i : Instr) (ea : Word), (s.resolve i.operand).loc = .mem ea →
      (∀ f, s.memRead ea = .error f → i.mnemonic ∈ [.inc, .dec] → exec i s = s.stopsAt f) ∧
      ∀ v : Byte, s.memRead ea = .ok v →
        let done (r : Byte) : Prop :=
          (∀ t, s.memWrite ea r = .ok t → exec i s = .next (State.completed i s { t with flags := nz r })) ∧
          (∀ f, s.memWrite ea r = .error f → exec i s = s.stopsAt f)
        (i.mnemonic = .inc → done (v + 1)) ∧ (i.mnemonic = .dec → done (v - 1))) ∧
    exec .inx s = .next (State.completed .inx s { s with x := s.x + 1, flags := nz (s.x + 1) }) ∧
    exec .iny s = .next (State.completed .iny s { s with y := s.y + 1, flags := nz (s.y + 1) }) ∧
    exec .dex s = .next (State.completed .dex s { s with x := s.x - 1, flags := nz (s.x - 1) }) ∧
    exec .dey s = .next (State.completed .dey s { s with y := s.y - 1, flags := nz (s.y - 1) })

/-- R186 to R189: ASL, LSR, ROL and ROR, on the accumulator and on memory: the result written to the location that was read,
C from the bit shifted out, N and Z from the result. A read that faults stops them with nothing changed; a write that
faults stops them after C, as the order of the rules' pseudocode has it (log entry 7). -/
def Obligations.ShiftsAndRotates : Prop :=
  encodedAs .asl [(0x0A, .acc), (0x06, .zp), (0x16, .zpx), (0x0E, .abs), (0x1E, .absx)] ∧
  encodedAs .lsr [(0x4A, .acc), (0x46, .zp), (0x56, .zpx), (0x4E, .abs), (0x5E, .absx)] ∧
  encodedAs .rol [(0x2A, .acc), (0x26, .zp), (0x36, .zpx), (0x2E, .abs), (0x3E, .absx)] ∧
  encodedAs .ror [(0x6A, .acc), (0x66, .zp), (0x76, .zpx), (0x6E, .abs), (0x7E, .absx)] ∧
  ∀ (i : Instr) (s : State),
    (∀ f, s.readOperand i.operand = .error f → i.mnemonic ∈ [.asl, .lsr, .rol, .ror] → exec i s = s.stopsAt f) ∧
    ∀ v : Byte, s.readOperand i.operand = .ok v →
      let done (c : Bool) (r : Byte) : Prop :=
        (∀ t, s.writeLoc (s.resolve i.operand).loc r = .ok t →
          exec i s = .next (State.completed i s
            { t with flags := { s.flags with c := c, n := r.getLsbD 7, z := decide (r = 0) } })) ∧
        (∀ f, s.writeLoc (s.resolve i.operand).loc r = .error f →
          exec i s = State.stopsAt { s with flags := { s.flags with c := c } } f)
      (i.mnemonic = .asl → done (v.getLsbD 7) (v <<< 1)) ∧
      (i.mnemonic = .lsr → done (v.getLsbD 0) (v >>> 1)) ∧
      (i.mnemonic = .rol → done (v.getLsbD 7) ((v <<< 1) ||| (if s.flags.c then 0x01 else 0x00))) ∧
      (i.mnemonic = .ror → done (v.getLsbD 0) ((v >>> 1) ||| (if s.flags.c then 0x80 else 0x00)))

/-- R200, R201, R118: JMP goes to its operand, or to the word its pointer holds, the high byte read where P_JMP_IND_WRAP
says, and a pointer read that faults stops it with nothing changed; JSR pushes the address of its last byte, high byte
first, and goes to its operand. -/
def Obligations.JumpsAndCalls : Prop :=
  encodedAs .jmp [(0x4C, .abs), (0x6C, .ind)] ∧ encodedAs .jsr [(0x20, .abs)] ∧
  ∀ (s : State) (w : Word),
    let high : Word := if s.cfg.jmpIndWrap = .linear then w + 1 else (w &&& 0xFF00) ||| ((w + 1) &&& 0x00FF)
    let cell (k : Byte) : Nat := (0x0100 + k.setWidth 16 : Word).toNat % s.cfg.ramSize
    exec (.jmpAbs w) s = .next (State.transferred (.jmpAbs w) s w 0 s) ∧
    (∀ lo hi, s.memRead w = .ok lo → s.memRead high = .ok hi →
      exec (.jmpInd w) s = .next (State.transferred (.jmpInd w) s (hi ++ lo) 0 s)) ∧
    (∀ f, s.memRead w = .error f → exec (.jmpInd w) s = s.stopsAt f) ∧
    (∀ lo f, s.memRead w = .ok lo → s.memRead high = .error f → exec (.jmpInd w) s = s.stopsAt f) ∧
    exec (.jsr w) s = .next (State.transferred (.jsr w) s w 0 { s with
      ram := (s.ram.write (cell s.sp) ((s.pc + 2) >>> 8 |>.setWidth 8)).write (cell (s.sp - 1)) ((s.pc + 2).setWidth 8)
      sp := s.sp - 2 })

/-- R202, R203, R212: RTS returns to the pulled word plus one, and halts the processor exactly when that is one of the two
sentinels; RTI pulls the flags as PLP does, then PC with no +1, and checks no sentinel. Neither stops. -/
def Obligations.Returns : Prop :=
  encodedAs .rts [(0x60, .imp)] ∧ encodedAs .rti [(0x40, .imp)] ∧
  ∀ s : State,
    let pulled (k : Byte) : Byte := s.ram.read ((0x0100 + (s.sp + k).setWidth 16 : Word).toNat % s.cfg.ramSize)
    let r : Word := (pulled 2 ++ pulled 1) + 1
    let v : Byte := pulled 1
    exec .rts s = .next (State.transferred .rts s r 0 { s with
      sp := s.sp + 2
      halted := s.halted || decide (r = s.cfg.sentinelInit ∨ r = s.cfg.sentinelPlay) }) ∧
    exec .rti s = .next (State.transferred .rti s (pulled 3 ++ pulled 2) 0 { s with
      sp := s.sp + 3
      flags := { n := v.getLsbD 7, v := v.getLsbD 6, b := v.getLsbD 4, d := v.getLsbD 3, i := v.getLsbD 2
                 z := v.getLsbD 1, c := v.getLsbD 0 } })

/-- R123, R204 to R211, R232: each branch goes to its target when its condition holds and past itself otherwise; it writes
no flag; it costs 2, 3 taken to the same page, 4 taken across a page, or 2 always under P_BRANCH_TIMING = Flat. -/
def Obligations.BranchesFollowTheirCondition : Prop :=
  encodedAs .bcc [(0x90, .rel)] ∧
  encodedAs .bcs [(0xB0, .rel)] ∧
  encodedAs .beq [(0xF0, .rel)] ∧
  encodedAs .bne [(0xD0, .rel)] ∧
  encodedAs .bmi [(0x30, .rel)] ∧
  encodedAs .bpl [(0x10, .rel)] ∧
  encodedAs .bvc [(0x50, .rel)] ∧
  encodedAs .bvs [(0x70, .rel)] ∧
  ∀ (s : State) (r : Byte),
    let next : Word := s.pc + 2
    let target : Word := next + r.signExtend 16
    let cross : Bool := decide (next >>> 8 ≠ target >>> 8)
    ∀ p ∈ ([(.bcc r, !s.flags.c), (.bcs r, s.flags.c), (.beq r, s.flags.z), (.bne r, !s.flags.z), (.bmi r, s.flags.n),
        (.bpl r, !s.flags.n), (.bvc r, !s.flags.v), (.bvs r, s.flags.v)] : List (Instr × Bool)),
      exec p.1 s = .next { s with
        pc := if p.2 then target else next
        cost := (if s.cfg.branchTiming = .flat ∨ p.2 = false then 2 else if cross then 4 else 3) +
          s.apu.dmc.stallPending
        apu := { s.apu with dmc := { s.apu.dmc with stallPending := 0 } } }

/-- R213 to R220: each flag instruction writes exactly its flag, and NOP nothing. -/
def Obligations.FlagInstructionsWriteOneFlag : Prop :=
  encodedAs .clc [(0x18, .imp)] ∧
  encodedAs .sec [(0x38, .imp)] ∧
  encodedAs .cli [(0x58, .imp)] ∧
  encodedAs .sei [(0x78, .imp)] ∧
  encodedAs .cld [(0xD8, .imp)] ∧
  encodedAs .sed [(0xF8, .imp)] ∧
  encodedAs .clv [(0xB8, .imp)] ∧
  encodedAs .nop [(0xEA, .imp)] ∧
  ∀ s : State,
    exec .clc s = .next (State.completed .clc s { s with flags := { s.flags with c := false } }) ∧
    exec .sec s = .next (State.completed .sec s { s with flags := { s.flags with c := true } }) ∧
    exec .cli s = .next (State.completed .cli s { s with flags := { s.flags with i := false } }) ∧
    exec .sei s = .next (State.completed .sei s { s with flags := { s.flags with i := true } }) ∧
    exec .cld s = .next (State.completed .cld s { s with flags := { s.flags with d := false } }) ∧
    exec .sed s = .next (State.completed .sed s { s with flags := { s.flags with d := true } }) ∧
    exec .clv s = .next (State.completed .clv s { s with flags := { s.flags with v := false } }) ∧
    exec .nop s = .next (State.completed .nop s s)

/-- R225, R378: under P_BRK = Fault, BRK raises UnsupportedOpcode and changes nothing; under Standard it pushes PC + 2 high
byte first and then P with bits 5 and 4 set, sets B and I, and goes to the word read at 0xFFFE; a vector read that faults
stops it after those pushes and flags (R374). -/
def Obligations.BreakFaultsOrTraps : Prop :=
  encodedAs .brk [(0x00, .imp)] ∧
  ∀ s : State,
    let p : Byte := BitVec.ofBool s.flags.n ++ BitVec.ofBool s.flags.v ++ (0b11#2) ++ BitVec.ofBool s.flags.d ++
      BitVec.ofBool s.flags.i ++ BitVec.ofBool s.flags.z ++ BitVec.ofBool s.flags.c
    let cell (k : Byte) : Nat := (0x0100 + k.setWidth 16 : Word).toNat % s.cfg.ramSize
    let framed : State := { s with
      ram := ((s.ram.write (cell s.sp) ((s.pc + 2) >>> 8 |>.setWidth 8)).write (cell (s.sp - 1))
        ((s.pc + 2).setWidth 8)).write (cell (s.sp - 2)) p
      sp := s.sp - 3
      flags := { s.flags with b := true, i := true } }
    (s.cfg.brk = .fault → exec .brk s = s.stopsAt (.unsupportedOpcode s.pc 0x00)) ∧
    (s.cfg.brk = .standard →
      (∀ lo hi, s.memRead 0xFFFE = .ok lo → s.memRead 0xFFFF = .ok hi →
        exec .brk s = .next (State.transferred .brk s (hi ++ lo) 0 framed)) ∧
      (∀ f, s.memRead 0xFFFE = .error f → exec .brk s = framed.stopsAt f))

/-- R111 to R117, R119 to R122, R124, R125: the location and the page-cross flag that each addressing mode resolves to, the
zero-page sums and pointers wrapping within page zero, and what a read and a write of a location do. R230, R233, R420: the
clock cost of every instruction that is no branch is R95's base clocks, plus one exactly when its page-cross flag is set
and its address crosses a page, plus the pending DMC stall, which it clears. -/
def Obligations.CostIsTheTabledCost : Prop :=
  (∀ (s : State) (v z : Byte) (w : Word),
    let ram (z : Byte) : Byte := s.ram.read (z.toNat % s.cfg.ramSize)
    let pointer (z : Byte) : Word := ram (z + 1) ++ ram z
    let indexed (base : Word) (index : Byte) : Resolved :=
      let ea := base + index.setWidth 16
      ⟨.mem ea, decide (base.extractLsb' 8 8 ≠ ea.extractLsb' 8 8)⟩
    s.resolve .imp = ⟨.none, false⟩ ∧ s.resolve .acc = ⟨.acc, false⟩ ∧ s.resolve (.imm v) = ⟨.imm v, false⟩ ∧
    s.resolve (.zp z) = ⟨.mem (z.setWidth 16), false⟩ ∧ s.resolve (.zpx z) = ⟨.mem ((z + s.x).setWidth 16), false⟩ ∧
    s.resolve (.zpy z) = ⟨.mem ((z + s.y).setWidth 16), false⟩ ∧ s.resolve (.abs w) = ⟨.mem w, false⟩ ∧
    s.resolve (.absx w) = indexed w s.x ∧ s.resolve (.absy w) = indexed w s.y ∧
    s.resolve (.indx z) = ⟨.mem (pointer (z + s.x)), false⟩ ∧ s.resolve (.indy z) = indexed (pointer z) s.y ∧
    s.resolve (.ind w) = ⟨.none, false⟩ ∧ s.resolve (.rel v) = ⟨.none, false⟩ ∧
    s.readLoc .acc = .ok s.a ∧ s.readLoc (.imm v) = .ok v ∧ s.readLoc (.mem w) = s.memRead w ∧
    s.writeLoc .acc v = .ok { s with a := v } ∧ s.writeLoc (.mem w) v = s.memWrite w v) ∧
  ∀ (i : Instr) (s t : State), exec i s = .next t → i.operand.mode ≠ .rel →
    t.cost = i.baseClocks + (if i.pageCross ∧ (s.resolve i.operand).cross then 1 else 0) + s.apu.dmc.stallPending ∧
    t.apu.dmc.stallPending = 0

/-! ### Frames -/

/-- R20: which instructions write A, X and Y; every other instruction leaves them. -/
def Obligations.OnlyListedInstructionsWriteRegisters : Prop :=
  ∀ (i : Instr) (s t : State), exec i s = .next t →
    (t.a ≠ s.a → i.mnemonic ∈ [.lda, .pla, .txa, .tya, .adc, .sbc, .and, .ora, .eor] ∨
      (i.mnemonic ∈ [.asl, .lsr, .rol, .ror] ∧ i.operand = .acc)) ∧
    (t.x ≠ s.x → i.mnemonic ∈ [.ldx, .tax, .tsx, .inx, .dex]) ∧
    (t.y ≠ s.y → i.mnemonic ∈ [.ldy, .tay, .iny, .dey])

/-- The table of R23: which instructions write each flag; and which write S (R21, R27) and the halted flag (R29). -/
def Obligations.OnlyListedInstructionsWriteFlags : Prop :=
  ∀ (i : Instr) (s t : State), exec i s = .next t →
    (t.flags.n ≠ s.flags.n ∨ t.flags.z ≠ s.flags.z → i.mnemonic ∈ [.lda, .ldx, .ldy, .tax, .tay, .txa, .tya, .tsx, .pla,
      .plp, .adc, .sbc, .and, .ora, .eor, .cmp, .cpx, .cpy, .bit, .inc, .dec, .inx, .iny, .dex, .dey, .asl, .lsr, .rol,
      .ror, .rti]) ∧
    (t.flags.v ≠ s.flags.v → i.mnemonic ∈ [.adc, .sbc, .bit, .clv, .plp, .rti]) ∧
    (t.flags.b ≠ s.flags.b → i.mnemonic ∈ [.plp, .rti, .brk]) ∧
    (t.flags.d ≠ s.flags.d → i.mnemonic ∈ [.sed, .cld, .plp, .rti]) ∧
    (t.flags.i ≠ s.flags.i → i.mnemonic ∈ [.sei, .cli, .plp, .rti, .brk]) ∧
    (t.flags.c ≠ s.flags.c → i.mnemonic ∈ [.adc, .sbc, .cmp, .cpx, .cpy, .asl, .lsr, .rol, .ror, .clc, .sec, .plp,
      .rti]) ∧
    (t.sp ≠ s.sp → i.mnemonic ∈ [.txs, .pha, .php, .pla, .plp, .jsr, .rts, .rti, .brk]) ∧
    (t.halted ≠ s.halted → i.mnemonic = .rts)

/-- R125, R61: an instruction that neither stores nor pushes leaves every byte of memory, the page selection and the APU
(but for the pending stall) as they were; and no instruction writes the fault flag or the clocks of the sample clock and
the play driver. -/
def Obligations.OnlyStoresChangeMemory : Prop :=
  ∀ (i : Instr) (s t : State), exec i s = .next t →
    (i.mnemonic ∉ [.sta, .stx, .sty, .pha, .php, .jsr, .brk] →
      (i.mnemonic ∈ [.inc, .dec, .asl, .lsr, .rol, .ror] → i.operand = .acc) →
      (∀ a, t.memRead a = s.memRead a) ∧ t.ram = s.ram ∧ t.select = s.select ∧ sameButStall s.apu t.apu) ∧
    t.fault = s.fault ∧ t.debt = s.debt ∧ t.frameClock = s.frameClock ∧ t.playing = s.playing ∧
    t.currentSong = s.currentSong ∧ t.cfg = s.cfg ∧ t.image = s.image ∧ t.started = s.started

/-- R57, R63, R125: the memory frame of a store or of a read-modify-write on memory, at the address its addressing mode
resolves to: every address that the written location does not decode to reads as before; below 0x2000 its mirrors read
the stored byte. RAM is in canonical form, as every step keeps it (`Obligations.StepKeepsTheInvariant`). -/
def Obligations.StoreFrameByByte : Prop :=
  ∀ (i : Instr) (s t : State) (ea : Word), s.ram.wf →
    i.mnemonic ∈ [.sta, .stx, .sty, .inc, .dec, .asl, .lsr, .rol, .ror] →
    (s.resolve i.operand).loc = .mem ea → exec i s = .next t →
    (∀ a, ¬ mayChange s ea a → t.memRead a = s.memRead a) ∧
    (ea < 0x2000 → ∀ a, aliases s ea a → t.memRead a = t.memRead ea) ∧
    (i.mnemonic = .sta → ea < 0x2000 → t.memRead ea = .ok s.a) ∧
    (i.mnemonic = .stx → ea < 0x2000 → t.memRead ea = .ok s.x) ∧
    (i.mnemonic = .sty → ea < 0x2000 → t.memRead ea = .ok s.y)

/-- R27, R150, R151, R201, R225: the memory frame of the pushing instructions: only the stack bytes they write, and the
mirrors of those bytes, change; the page selection and the APU (but for the pending stall) do not. -/
def Obligations.PushFrameByByte : Prop :=
  ∀ (i : Instr) (s t : State) (k : Nat),
    (i.mnemonic ∈ [.pha, .php] ∧ k = 1) ∨ (i.mnemonic = .jsr ∧ k = 2) ∨ (i.mnemonic = .brk ∧ k = 3) →
    exec i s = .next t →
    t.sp = s.sp - BitVec.ofNat 8 k ∧ t.select = s.select ∧ sameButStall s.apu t.apu ∧
    ∀ a, (∀ j, j < k → ¬ aliases s (0x0100 + (s.sp - BitVec.ofNat 8 j).setWidth 16) a) → t.memRead a = s.memRead a

/-- R142, R373, R374, R375: an operand read that faults stops a read-class or read-modify-write instruction, and a store
that no line of the write decode claims faults under P_UNMAPPED_WRITE = Fault with the address and the byte, each with
nothing changed but the fault flag. -/
def Obligations.OperandFaultsArePrecise : Prop :=
  (∀ (i : Instr) (s : State) (f : CoreFault), s.readOperand i.operand = .error f →
    i.mnemonic ∈ [.lda, .ldx, .ldy, .and, .ora, .eor, .cmp, .cpx, .cpy, .bit, .inc, .dec, .asl, .lsr, .rol, .ror] ∨
      (i.mnemonic ∈ [.adc, .sbc] ∧ s.cfg.decimal = .binary) →
    exec i s = .fault (.core f { s with fault := some f })) ∧
  (∀ (i : Instr) (s : State) (ea : Word), (s.resolve i.operand).loc = .mem ea →
    s.cfg.unmappedWrite = .fault → 0x2000 ≤ ea → ¬ (0x4000 ≤ ea ∧ ea ≤ 0x4015) → ea ≠ 0x4017 →
    ¬ (s.cfg.bankBase ≤ ea.toNat ∧ ea.toNat ≤ s.cfg.bankBase + 7) →
    let stop (v : Byte) : Result := .fault (.core (.unmappedWrite ea v) { s with fault := some (.unmappedWrite ea v) })
    (i.mnemonic = .sta → exec i s = stop s.a) ∧ (i.mnemonic = .stx → exec i s = stop s.x) ∧
      (i.mnemonic = .sty → exec i s = stop s.y))

/-! ### Memory -/

/-- R54, R55, R373: the read decode. -/
def Obligations.ReadDecode : Prop :=
  ∀ (s : State) (im : Image) (a : Word), s.image = some im →
    (a < 0x8000 → s.memRead a = .ok (s.ram.read (a.toNat % s.cfg.ramSize))) ∧
    (0x8000 ≤ a → ∀ w (h : w < 8), w = (a.toNat / 0x1000) % 8 →
      (s.select[w] < im.pageCount → s.memRead a = .ok (im.rom.read (0x1000 * s.select[w] + a.toNat % 0x1000))) ∧
      (im.pageCount ≤ s.select[w] → s.cfg.bankOor = .zero → s.memRead a = .ok 0x00) ∧
      (im.pageCount ≤ s.select[w] → s.cfg.bankOor = .fault →
        s.memRead a = .error (.bankOutOfRange a s.select[w])))

/-- R57, R58: the write decode, where the launch premise on P_BANK_BASE holds (R8). -/
def Obligations.WriteDecode : Prop :=
  ∀ (s : State) (a : Word) (v : Byte), s.cfg.wellFormed = true →
    (a < 0x2000 → s.memWrite a v = .ok { s with ram := s.ram.write (a.toNat % s.cfg.ramSize) v }) ∧
    (0x4000 ≤ a → a ≤ 0x4015 → s.memWrite a v = .ok { s with apu := apuWrite s.cfg a v s.apu }) ∧
    (s.memWrite 0x4017 v = .ok { s with apu := frameModeWrite v s.apu }) ∧
    (∀ k (h : k < 8), a.toNat = s.cfg.bankBase + k → s.memWrite a v = .ok { s with select := s.select.set k v.toNat }) ∧
    (0x2000 ≤ a → ¬ (0x4000 ≤ a ∧ a ≤ 0x4015) → a ≠ 0x4017 →
      ¬ (s.cfg.bankBase ≤ a.toNat ∧ a.toNat ≤ s.cfg.bankBase + 7) →
      (s.cfg.unmappedWrite = .ignore → s.memWrite a v = .ok s) ∧
      (s.cfg.unmappedWrite = .fault → s.memWrite a v = .error (.unmappedWrite a v)))

/-- R65: a read returns the value that the last write to the same storage location left, and a write to RAM leaves every
other location alone; a write at or above 0x2000 never reaches RAM. RAM is in canonical form, as every step keeps it
(`Obligations.StepKeepsTheInvariant`). -/
def Obligations.ReadAfterWrite : Prop :=
  ∀ (s t : State) (a b : Word) (v : Byte), s.ram.wf → s.memWrite a v = .ok t →
    (a < 0x2000 → aliases s a b → t.memRead b = .ok v) ∧
    (a < 0x2000 → ¬ aliases s a b → t.memRead b = s.memRead b) ∧
    (0x2000 ≤ a → b < 0x8000 → t.memRead b = s.memRead b)

/-- R58, R68: a bank-select write sets the selection of its own window and nothing else, so the page of that window changes
from the next access on, and no other window. -/
def Obligations.BankSelectChangesItsWindow : Prop :=
  ∀ (s t : State) (im : Image) (a b : Word) (v : Byte) (k : Nat) (hk : k < 8), s.cfg.wellFormed = true →
    s.image = some im → a.toNat = s.cfg.bankBase + k → s.memWrite a v = .ok t →
    t = { s with select := s.select.set k v.toNat hk } ∧
    (0x8000 ≤ b →
      ((b.toNat / 0x1000) % 8 = k → v.toNat < im.pageCount →
        t.memRead b = .ok (im.rom.read (0x1000 * v.toNat + b.toNat % 0x1000))) ∧
      ((b.toNat / 0x1000) % 8 ≠ k → t.memRead b = s.memRead b))

/-! ### Whole-machine rules -/

/-- R26: no instruction reads the stored B. Two runs of an instruction that differ only in B end differing at most in B. -/
def Obligations.StoredBreakFlagIsInert : Prop :=
  ∀ (i : Instr) (s t : State) (b : Bool), exec i s = .next t →
    ∃ b', exec i (s.setB b) = .next (t.setB b') ∧ (i.mnemonic ∈ [.plp, .rti, .brk] → b' = t.flags.b)

/-- R370: with the default parameters, UnsupportedOpcode is the only fault a step of a core without a fault can end in. -/
def Obligations.DefaultFaultIsUnsupportedOpcode : Prop :=
  ∀ (s t : State) (f : CoreFault), s.fault = none → s.cfg.bankOor = .zero → s.cfg.unmappedWrite = .ignore →
    s.cfg.decimal = .binary → step s = .fault (.core f t) → ∃ pc op, f = .unsupportedOpcode pc op

/-- R345: the play driver's clock drops by P_PLAY_PERIOD at each boundary; a halted processor is then called at play_addr
with P_SENTINEL_PLAY − 1 pushed, high byte first; a busy one is not. A, X, Y and the flags do not change. -/
def Obligations.PlayDriverCallsAtTheBoundary : Prop :=
  ∀ (s : State) (im : Image), s.image = some im →
    let cell (k : Byte) : Nat := (0x0100 + k.setWidth 16 : Word).toNat % s.cfg.ramSize
    (s.frameClock + s.cost < s.cfg.playPeriod → s.playDriver = { s with frameClock := s.frameClock + s.cost }) ∧
    (s.cfg.playPeriod ≤ s.frameClock + s.cost → s.halted = false →
      s.playDriver = { s with frameClock := s.frameClock + s.cost - s.cfg.playPeriod }) ∧
    (s.cfg.playPeriod ≤ s.frameClock + s.cost → s.halted = true →
      s.playDriver = { s with
        frameClock := s.frameClock + s.cost - s.cfg.playPeriod
        ram := (s.ram.write (cell s.sp) ((s.cfg.sentinelPlay - 1) >>> 8 |>.setWidth 8)).write (cell (s.sp - 1))
          ((s.cfg.sentinelPlay - 1).setWidth 8)
        sp := s.sp - 2
        pc := im.playAddr
        halted := false })

/-- R37: no step changes the configuration, the image, the song, the play flag or the debt; and every step of a
well-formed machine costs at least one clock (R341). -/
def Obligations.StepKeepsTheLaunch : Prop :=
  ∀ s t : State, s.cfg.wellFormed = true → step s = .next t →
    t.cfg = s.cfg ∧ t.image = s.image ∧ t.currentSong = s.currentSong ∧ t.playing = s.playing ∧ t.debt = s.debt ∧
    t.started = s.started ∧ t.fault = none ∧ 1 ≤ t.cost

/-! ### The APU -/

/-- R242 to R245: the pulse registers, by the addresses a store reaches them at. -/
def Obligations.PulseRegisterWrites : Prop :=
  ∀ (s : State) (v : Byte),
    let q (p : Pulse) : Pulse := { p with duty := v.extractLsb' 6 2, env := { p.env with
      halt := v.getLsbD 5, constVol := v.getLsbD 4, vol := v.extractLsb' 0 4 } }
    let sw (p : Pulse) : Pulse := { p with sweep := { p.sweep with
      en := v.getLsbD 7, period := v.extractLsb' 4 3, neg := v.getLsbD 3, shift := v.extractLsb' 0 3, reload := true } }
    let lo (p : Pulse) : Pulse := { p with period := p.period.extractLsb' 8 4 ++ v }
    let hi (p : Pulse) : Pulse := { p with
      period := (0#1) ++ v.extractLsb' 0 3 ++ p.period.extractLsb' 0 8
      length := s.cfg.lengthTable[(v >>> 3).toNat]?.getD 0
      step := 0
      env := { p.env with start := true } }
    s.memWrite 0x4000 v = .ok { s with apu := { s.apu with pulse1 := q s.apu.pulse1 } } ∧
    s.memWrite 0x4001 v = .ok { s with apu := { s.apu with pulse1 := sw s.apu.pulse1 } } ∧
    s.memWrite 0x4002 v = .ok { s with apu := { s.apu with pulse1 := lo s.apu.pulse1 } } ∧
    s.memWrite 0x4003 v = .ok { s with apu := { s.apu with pulse1 := hi s.apu.pulse1 } } ∧
    s.memWrite 0x4004 v = .ok { s with apu := { s.apu with pulse2 := q s.apu.pulse2 } } ∧
    s.memWrite 0x4005 v = .ok { s with apu := { s.apu with pulse2 := sw s.apu.pulse2 } } ∧
    s.memWrite 0x4006 v = .ok { s with apu := { s.apu with pulse2 := lo s.apu.pulse2 } } ∧
    s.memWrite 0x4007 v = .ok { s with apu := { s.apu with pulse2 := hi s.apu.pulse2 } }

/-- R246 to R249, R251, R252: the triangle and noise registers. -/
def Obligations.TriangleAndNoiseRegisterWrites : Prop :=
  ∀ (s : State) (v : Byte),
    let t := s.apu.triangle
    let n := s.apu.noise
    let len := s.cfg.lengthTable[(v >>> 3).toNat]?.getD 0
    s.memWrite 0x4008 v = .ok { s with apu := { s.apu with
      triangle := { t with control := v.getLsbD 7, linReloadValue := v.extractLsb' 0 7 } } } ∧
    s.memWrite 0x400A v = .ok { s with apu := { s.apu with
      triangle := { t with period := t.period.extractLsb' 8 3 ++ v } } } ∧
    s.memWrite 0x400B v = .ok { s with apu := { s.apu with
      triangle := { t with
        period := v.extractLsb' 0 3 ++ t.period.extractLsb' 0 8, length := len, linReloadFlag := true } } } ∧
    s.memWrite 0x400C v = .ok { s with apu := { s.apu with
      noise := { n with env := { n.env with
        halt := v.getLsbD 5, constVol := v.getLsbD 4, vol := v.extractLsb' 0 4 } } } } ∧
    s.memWrite 0x400E v = .ok { s with apu := { s.apu with
      noise := { n with mode := v.getLsbD 7, periodIndex := v.extractLsb' 0 4 } } } ∧
    s.memWrite 0x400F v = .ok { s with apu := { s.apu with
      noise := { n with length := len, env := { n.env with start := true } } } }

/-- R250, R253, R256: the DMC registers but for the enable register, the frame-mode register, and the three addresses that
change nothing. -/
def Obligations.DmcAndModeRegisterWrites : Prop :=
  ∀ (s : State) (v : Byte),
    let d := s.apu.dmc
    s.memWrite 0x4010 v = .ok { s with apu := { s.apu with
      dmc := { d with irqEn := v.getLsbD 7, loop := v.getLsbD 6, rateIndex := v.extractLsb' 0 4 } } } ∧
    s.memWrite 0x4011 v = .ok { s with apu := { s.apu with dmc := { d with level := v.toNat % 128 / 2 } } } ∧
    s.memWrite 0x4012 v = .ok { s with apu := { s.apu with dmc := { d with addrReg := v } } } ∧
    s.memWrite 0x4013 v = .ok { s with apu := { s.apu with dmc := { d with lenReg := v } } } ∧
    s.memWrite 0x4017 v = .ok { s with apu := { s.apu with
      seq := { mode := if v.getLsbD 7 then .five else .four, step := 0, acc := 0 } } } ∧
    s.memWrite 0x4009 v = .ok s ∧ s.memWrite 0x400D v = .ok s ∧ s.memWrite 0x4014 v = .ok s

/-- R254, R306: the channel-enable register sets the five enable flags, clears the length of each channel it disables, and
starts or stops the DMC; nothing else of the APU changes. -/
def Obligations.ChannelEnableWrites : Prop :=
  ∀ (s : State) (v : Byte), ∃ t, s.memWrite 0x4015 v = .ok t ∧
    let p := s.apu
    let len (on : Bool) (l : Nat) : Nat := if on then l else 0
    t = { s with apu := { p with
      pulse1 := { p.pulse1 with enabled := v.getLsbD 0, length := len (v.getLsbD 0) p.pulse1.length }
      pulse2 := { p.pulse2 with enabled := v.getLsbD 1, length := len (v.getLsbD 1) p.pulse2.length }
      triangle := { p.triangle with enabled := v.getLsbD 2, length := len (v.getLsbD 2) p.triangle.length }
      noise := { p.noise with enabled := v.getLsbD 3, length := len (v.getLsbD 3) p.noise.length }
      dmc := t.apu.dmc } } ∧
    (v.getLsbD 4 = true → p.dmc.bytesRemaining = 0 → t.apu.dmc = { p.dmc with
      enabled := true
      curAddr := BitVec.ofNat 16 (0xC000 + 64 * p.dmc.addrReg.toNat)
      bytesRemaining := 16 * p.dmc.lenReg.toNat + 1 }) ∧
    (v.getLsbD 4 = true → 0 < p.dmc.bytesRemaining → t.apu.dmc = { p.dmc with enabled := true }) ∧
    (v.getLsbD 4 = false → t.apu.dmc = { p.dmc with enabled := false, bytesRemaining := 0 })

/-- R261: under P_FS_RESET = Zero, clocks that do not carry the accumulator past the threshold only add up, and clocks that
do fire the step exactly once, drop the excess and go to the next step. -/
def Obligations.FrameStepFiresOnce : Prop :=
  ∀ (c : Config) (p : Apu) (d : Nat), c.fsReset = .zero →
    let limit := threshold c p.seq.mode p.seq.step
    (p.seq.acc + d ≤ limit → p.advanceFrame c d = { p with seq := { p.seq with acc := p.seq.acc + d } }) ∧
    (limit < p.seq.acc + d → p.advanceFrame c d = { p.frameEvents c p.seq.step with
      seq := { p.seq with step := (p.seq.step + 1) % p.seq.mode.steps, acc := 0 } })

/-- R261: Carry makes d single-clock calls equal to one call of d. -/
def Obligations.CarryMakesClocksAdditive : Prop :=
  ∀ (c : Config) (p : Apu) (d : Nat), c.fsReset = .carry → SeqInRange c p.seq →
    iterate (fun q => q.advanceFrame c 1) d p = p.advanceFrame c d

/-- R262: steps 0 and 2 fire the quarter-frame actions, steps 1 and 3 those and then the half-frame actions, step 4 neither;
and the order of the two is not observable. R265: over one full cycle of either mode there are 4 quarter-frame and 2
half-frame events. -/
def Obligations.FrameEventsOfACycle : Prop :=
  (∀ m : FrameMode, ((List.range m.steps).filter emitsQuarter).length = 4 ∧
    ((List.range m.steps).filter emitsHalf).length = 2) ∧
  emitsQuarter 4 = false ∧ emitsHalf 4 = false ∧
  ∀ (c : Config) (p : Apu),
    p.frameEvents c 0 = p.quarterFrame ∧ p.frameEvents c 1 = p.quarterFrame.halfFrame c ∧
    p.frameEvents c 2 = p.quarterFrame ∧ p.frameEvents c 3 = p.quarterFrame.halfFrame c ∧ p.frameEvents c 4 = p ∧
    p.quarterFrame.halfFrame c = (p.halfFrame c).quarterFrame

/-- R263, R264, R266, R268, R269: a quarter-frame event clocks the envelopes of the pulses and the noise and the linear
counter of the triangle; a half-frame event clocks the length counters and the two sweeps; neither changes anything
else. -/
def Obligations.EnvelopesAndCountersClock : Prop :=
  ∀ (c : Config) (p : Apu),
    let env (e : Envelope) : Envelope :=
      if e.start = true then { e with start := false, decay := 15, div := e.vol }
      else if e.div = 0 then
        { e with div := e.vol, decay := if 0 < e.decay then e.decay - 1 else if e.halt = true then 15 else e.decay }
      else { e with div := e.div - 1 }
    let len (halt : Bool) (l : Nat) : Nat := if halt = false ∧ 0 < l then l - 1 else l
    let t := p.triangle
    p.quarterFrame = { p with
      pulse1 := { p.pulse1 with env := env p.pulse1.env }
      pulse2 := { p.pulse2 with env := env p.pulse2.env }
      noise := { p.noise with env := env p.noise.env }
      triangle := { t with
        lin := if t.linReloadFlag = true then t.linReloadValue else if 0 < t.lin then t.lin - 1 else t.lin
        linReloadFlag := if t.control = false then false else t.linReloadFlag } } ∧
    p.halfFrame c = { p with
      pulse1 := { p.pulse1.sweepClock c true with length := len p.pulse1.env.halt p.pulse1.length }
      pulse2 := { p.pulse2.sweepClock c false with length := len p.pulse2.env.halt p.pulse2.length }
      triangle := { t with length := len t.control t.length }
      noise := { p.noise with length := len p.noise.env.halt p.noise.length } }

/-- R270, R271: a sweep update never makes the period negative and never takes it past P_SWEEP_LIMIT, so the period becomes
the target exactly; a sweep clock that does not update leaves the period; an enabled sweep whose target exceeds the
limit mutes; the divider reloads or counts down, the reload flag clears, and nothing else changes. -/
def Obligations.SweepStaysInRange : Prop :=
  ∀ (c : Config) (first : Bool) (p : Pulse), c.wellFormed = true →
    let change := p.period.toNat / 2 ^ p.sweep.shift.toNat
    let target : Int := if p.sweep.neg then (p.period.toNat : Int) - change - (if first then 1 else 0)
      else p.period.toNat + change
    let muted : Prop := p.sweep.en = true ∧ (c.sweepLimit : Int) < target
    let updates : Prop := p.sweep.div = 0 ∧ p.sweep.en = true ∧ p.sweep.shift ≠ 0 ∧ ¬ muted ∧
      c.pulseMinPeriod ≤ p.period.toNat
    let q := p.sweepClock c first
    (q.sweep.mute = true ↔ muted) ∧
    (updates → 0 ≤ target ∧ target ≤ c.sweepLimit ∧ (q.period.toNat : Int) = target) ∧
    (¬ updates → q.period = p.period) ∧
    q = { p with
      period := q.period
      sweep := { p.sweep with
        mute := q.sweep.mute
        div := if p.sweep.div = 0 ∨ p.sweep.reload = true then p.sweep.period else p.sweep.div - 1
        reload := false } }

/-- R281, R291, R296: from an expired timer, a pulse channel steps once every 2·(period + 1) processor clocks, the triangle
once every period + 1 while both counters are nonzero, and the noise register shifts once every table period, the xor of
bit 0 and the tap (bit 6 in the short mode, bit 1 otherwise) entering at bit 14. Below its threshold a pulse channel or the
triangle does not change at all; with a counter at zero the triangle's timer runs and its step stays. -/
def Obligations.ChannelsStepOncePerPeriod : Prop :=
  (∀ (c : Config) (p : Pulse), p.timer = 0 → c.pulseMinPeriod ≤ p.period.toNat →
    iterate (Pulse.clock c) (2 * (p.period.toNat + 1)) p = { p with step := p.step + 1 }) ∧
  (∀ (c : Config) (t : Triangle), t.timer = 0 → c.triMinPeriod ≤ t.period.toNat →
    (0 < t.length → 0 < t.lin → iterate (Triangle.clock c) (t.period.toNat + 1) t = { t with step := t.step + 1 }) ∧
    (t.length = 0 ∨ t.lin = 0 → iterate (Triangle.clock c) (t.period.toNat + 1) t = t)) ∧
  (∀ (c : Config) (t : Triangle) (k : Nat), t.length = 0 ∨ t.lin = 0 →
    (iterate (Triangle.clock c) k t).step = t.step) ∧
  (∀ (c : Config) (n : Noise) (k : Nat), n.timer = 0 → c.noisePeriod[n.periodIndex.toNat]? = some (k + 1) →
    let feedback : Bool := n.lfsr.getLsbD 0 ^^ n.lfsr.getLsbD (if n.mode = true then 6 else 1)
    iterate (Noise.clock c) (k + 1) n = { n with lfsr := BitVec.ofBool feedback ++ n.lfsr.extractLsb' 1 14 }) ∧
  (∀ (c : Config) (p : Pulse) (k : Nat), p.period.toNat < c.pulseMinPeriod → iterate (Pulse.clock c) k p = p) ∧
  (∀ (c : Config) (t : Triangle) (k : Nat), t.period.toNat < c.triMinPeriod → iterate (Triangle.clock c) k t = t)

/-- R342, R315: an APU tick of `k` clocks gives the whole delta to the frame sequencer and then `k` single clocks to each of
the five channels; it changes nothing but the APU. Where the DMC clock number `j + 1` faults, the tick faults there: the
other four channels have had `j + 1` clocks, and the remaining clocks do not run. It ends in no fault where no read can. -/
def Obligations.TickClocksEveryChannel : Prop :=
  ∀ (s : State) (k : Nat),
    let p := s.apu.advanceFrame s.cfg k
    let start : State := { s with apu := p }
    let ticked (n : Nat) (d : Dmc) : State := { s with apu := {
      pulse1 := iterate (Pulse.clock s.cfg) n p.pulse1
      pulse2 := iterate (Pulse.clock s.cfg) n p.pulse2
      triangle := iterate (Triangle.clock s.cfg) n p.triangle
      noise := iterate (Noise.clock s.cfg) n p.noise
      dmc := d
      seq := p.seq } }
    (∀ u, dmcClocks k start = .next u → s.apuTick k = .next (ticked k u.apu.dmc)) ∧
    (∀ j u v f, j < k → dmcClocks j start = .next u → u.dmcClock = .fault (.core f v) →
      s.apuTick k = (ticked (j + 1) v.apu.dmc).stopsAt f) ∧
    ((∃ u, dmcClocks k start = .next u) ∨
      ∃ j u v f, j < k ∧ dmcClocks j start = .next u ∧ u.dmcClock = .fault (.core f v)) ∧
    (s.cfg.bankOor = .zero → ∃ t, s.apuTick k = .next t)

/-- R307, R306: a DMC clock. A running timer counts down. An expired one is reloaded from the rate table; then, with an empty
bit buffer and bytes remaining, the byte at cur_addr is fetched, P_DMC_STALL is charged and the address moves on, from
0xFFFF to 0x8000; the last byte restarts a looping sample and ends any other; and the lowest bit of the buffer, if it
holds any, is played. A fetch that faults stops the clock with the timer reloaded and nothing else changed: that clause is
the model's reading (DEDUCED, log entry 10). -/
def Obligations.DmcFetchesAndPlays : Prop :=
  ∀ s : State,
    let d := s.apu.dmc
    let become (x : Dmc) : State := { s with apu := { s.apu with dmc := x } }
    let moved (up : Bool) : Nat := if up = true then min 63 (d.level + 1) else d.level - 1
    let reloaded : Dmc := { d with timer := s.cfg.dmcRate[d.rateIndex.toNat]?.getD 0 - 1 }
    (0 < d.timer → s.dmcClock = .next (become { d with timer := d.timer - 1 })) ∧
    (d.timer = 0 → 0 < d.bitsLeft → s.dmcClock = .next (become { reloaded with
      shift := d.shift >>> 1, bitsLeft := d.bitsLeft - 1, level := moved (d.shift.getLsbD 0) })) ∧
    (d.timer = 0 → d.bitsLeft = 0 → d.bytesRemaining = 0 → s.dmcClock = .next (become reloaded)) ∧
    (d.timer = 0 → d.bitsLeft = 0 → 0 < d.bytesRemaining →
      (∀ b, s.memRead d.curAddr = .ok b →
        let restarts : Prop := d.bytesRemaining = 1 ∧ d.loop = true
        s.dmcClock = .next (become { reloaded with
          shift := b >>> 1
          bitsLeft := 7
          level := moved (b.getLsbD 0)
          stallPending := d.stallPending + s.cfg.dmcStall
          curAddr := if restarts then BitVec.ofNat 16 (0xC000 + 64 * d.addrReg.toNat)
            else if d.curAddr = 0xFFFF then 0x8000 else d.curAddr + 1
          bytesRemaining := if restarts then 16 * d.lenReg.toNat + 1 else d.bytesRemaining - 1 })) ∧
      (∀ f, s.memRead d.curAddr = .error f → s.dmcClock = (become reloaded).stopsAt f))

/-- R330, R284, R290, R292, R297, R309, R331: the sample of an image that declares no expansion chip is the weighted sum of
the amplitudes of the enabled channels. -/
def Obligations.SampleMixesTheAmplitudes : Prop :=
  ∀ s : State, s.expansionMask = 0 →
    let c := s.cfg
    let p := s.apu
    let out (e : Envelope) : Nat := if e.constVol = true then e.vol.toNat else e.decay.toNat
    let pulse (q : Pulse) : Nat :=
      if q.length = 0 ∨ q.period.toNat < c.pulseMinPeriod ∨ q.sweep.mute = true then 0
      else (c.duty[q.duty.toNat]'q.duty.isLt)[q.step.toNat]'q.step.isLt * out q.env
    let k := p.triangle.step.toNat
    let triangle : Nat := if k < 16 then 15 - k else k - 16
    let noise : Nat := if p.noise.length = 0 ∨ p.noise.lfsr.getLsbD 14 = true then 0 else out p.noise.env
    let on (enabled : Bool) (amp : Nat) : Rat := if enabled = true then amp else 0
    s.sample = c.wPulse * (on p.pulse1.enabled (pulse p.pulse1) + on p.pulse2.enabled (pulse p.pulse2)) +
      c.wTri * on p.triangle.enabled triangle + c.wNoise * on p.noise.enabled noise +
      c.wDmc * on p.dmc.enabled p.dmc.level

/-- R284, R292, R297, R309, R330: the amplitudes are at most 15, 15, 15, 15 and 63, and with the default weights the sample
lies in [0, 0.84945] in every state that meets the invariant and declares no expansion chip. The bound is the sum that R330
writes out, worked out anew (log entry 14). -/
def Obligations.SampleIsBounded : Prop :=
  ∀ s : State, s.Inv → s.expansionMask = 0 →
    s.apu.pulse1.amp s.cfg ≤ 15 ∧ s.apu.pulse2.amp s.cfg ≤ 15 ∧ s.apu.triangle.amp ≤ 15 ∧ s.apu.noise.amp ≤ 15 ∧
    s.apu.dmc.amp ≤ 63 ∧
    (s.cfg.wPulse = 752 / 100000 → s.cfg.wTri = 851 / 100000 → s.cfg.wNoise = 494 / 100000 →
      s.cfg.wDmc = 670 / 100000 → 0 ≤ s.sample ∧ s.sample ≤ 84945 / 100000)

/-! ### The host operations -/

/-- R400, R35, R347: the song start on a loaded image, with the clamped song index: every register, flag and bookkeeping
field, RAM zero but for the pushed sentinel, the default page selection, and every APU field: the reset values of R35, with
the enable flags, and the DMC restart of R254, that the write of P_APU_RESET_4015 gives. -/
def Obligations.SongStartValues : Prop :=
  ∀ (s : State) (im : Image) (n : Int), s.cfg.wellFormed = true → s.image = some im → im.songCount ≠ 0 →
    ∃ t, startSong n s = .next t ∧
      ((t.currentSong : Int) = min (max n 1) im.songCount.toNat) ∧
      (t.a.toNat = t.currentSong - 1) ∧ t.x = 0 ∧ t.y = 0 ∧ t.sp = 0xFD ∧ t.pc = im.initAddr ∧
      t.flags = { n := false, v := false, b := false, d := false, i := true, z := false, c := false } ∧
      t.cost = 0 ∧ t.halted = false ∧ t.fault = none ∧ t.debt = 0 ∧ t.frameClock = 0 ∧ t.playing = true ∧
      (∀ k, k < s.cfg.ramSize → t.ram.read k =
        if k = 0x1FF then ((s.cfg.sentinelInit - 1) >>> 8).setWidth 8
        else if k = 0x1FE then (s.cfg.sentinelInit - 1).setWidth 8 else 0) ∧
      (∀ k (h : k < 8), t.select[k] = if im.overrides[k] = 0 then k else im.overrides[k].toNat) ∧
      (let v := s.cfg.apuReset4015
       let env : Envelope := { halt := false, constVol := false, vol := 0, start := false, div := 0, decay := 0 }
       let pulse (on : Bool) : Pulse := {
         duty := 0, env := env, period := 0, timer := 0, step := 0, length := 0, enabled := on
         sweep := { en := false, neg := false, reload := false, mute := false, period := 0, shift := 0, div := 0 } }
       t.apu = {
         pulse1 := pulse (v.getLsbD 0)
         pulse2 := pulse (v.getLsbD 1)
         triangle := {
           control := false, linReloadValue := 0, lin := 0, linReloadFlag := false, period := 0, timer := 0, step := 0
           length := 0, enabled := v.getLsbD 2 }
         noise := {
           env := env, mode := false, periodIndex := 0, timer := 0, lfsr := 1, length := 0, enabled := v.getLsbD 3 }
         dmc := {
           irqEn := false, loop := false, rateIndex := 0, level := 0, addrReg := 0, lenReg := 0, shift := 0, bitsLeft := 0
           timer := 0, stallPending := 0, enabled := v.getLsbD 4
           curAddr := if v.getLsbD 4 = true then 0xC000 else 0
           bytesRemaining := if v.getLsbD 4 = true then 1 else 0 }
         seq := { mode := .four, step := 0, acc := 0 } }) ∧
      t.cfg = s.cfg ∧ t.image = s.image

/-- The reset state is what StartSong computes from the default configuration and the blank image, whatever the state
before and whatever the song asked for. The blank image and the default sentinels are the model's choices (log entries 2
and 3); the rest is R400. -/
def Obligations.ResetIsSongStart : Prop :=
  ∀ (s : State) (n : Int), s.cfg = Config.default → s.image = some Image.blank → startSong n s = .next State.reset

/-- R350, R403: a song start depends on nothing but the configuration, the image and the song index, so the runs after two
song starts of the same song give the same answers to the same host operations. -/
def Obligations.SongStartForgetsThePast : Prop :=
  ∀ (s t : State) (n : Int) (ops : List HostOp), s.cfg = t.cfg → s.image = t.image → s.image ≠ none →
    s.cfg.wellFormed = true →
    hostRun (.startSong n :: ops) s = hostRun (.startSong n :: ops) t

/-- R70, R76, R77, R346: Load with a bad signature fails with FormatError, and Load of a refused image is refused, each
leaving the whole block as it was; any other Load succeeds. A file that is both short and unsigned falls under R70 and R76;
that it answers FormatError is the model's reading (DEDUCED, log entry 20). -/
def Obligations.LoadFailsUnchanged : Prop :=
  ∀ (s : State) (file : List Byte),
    let ov := (file.drop 0x70).take 8
    let loadAddr : Word := file.getD 9 0 ++ file.getD 8 0
    (file.take 5 ≠ [0x4E, 0x45, 0x53, 0x4D, 0x1A] → hostStep (.load file) s = (.formatError, s)) ∧
    (file.take 5 = [0x4E, 0x45, 0x53, 0x4D, 0x1A] →
      file.length < 0x80 ∨ ((∀ b ∈ ov, b = 0) ∧ loadAddr < 0x8000) ∨ file.getD 6 0 = 0 ∨ file.getD 0x7B 0 ≠ 0 →
      ∃ r, hostStep (.load file) s = (.refused r, s)) ∧
    (file.take 5 = [0x4E, 0x45, 0x53, 0x4D, 0x1A] → 0x80 ≤ file.length →
      ¬ ((∀ b ∈ ov, b = 0) ∧ loadAddr < 0x8000) → file.getD 6 0 ≠ 0 → file.getD 0x7B 0 = 0 →
      ∃ t, hostStep (.load file) s = (.done, t))

/-- R71: a file that Load takes has the signature and a whole header, and the header fields of the image are its bytes.
R72, R73: the pages of a loaded image are the data behind a prefix of zeroes, padded with zeroes to whole pages of
4096 bytes, at least one; and they meet the invariant's canonical form. -/
def Obligations.LoadedPagesHoldTheData : Prop :=
  ∀ (s t : State) (file : List Byte), load file s = .next t →
    file.take 5 = [0x4E, 0x45, 0x53, 0x4D, 0x1A] ∧ 0x80 ≤ file.length ∧
    ∃ im, t.image = some im ∧
      im.songCount = file.getD 0x06 0 ∧ im.startingSong = file.getD 0x07 0 ∧
      im.loadAddr = file.getD 0x09 0 ++ file.getD 0x08 0 ∧ im.initAddr = file.getD 0x0B 0 ++ file.getD 0x0A 0 ∧
      im.playAddr = file.getD 0x0D 0 ++ file.getD 0x0C 0 ∧
      im.name = (file.drop 0x0E).take 32 ∧ im.artist = (file.drop 0x2E).take 32 ∧
      im.copyright = (file.drop 0x4E).take 32 ∧ (∀ k (h : k < 8), im.overrides[k] = file.getD (0x70 + k) 0) ∧
      im.expansion = file.getD 0x7B 0 ∧
      let data := file.drop 0x80
      let banked : Prop := ∃ b ∈ (file.drop 0x70).take 8, b ≠ 0
      ∃ start : Nat, (banked → start = im.loadAddr.toNat % 0x1000) ∧ (¬ banked → start + 0x8000 = im.loadAddr.toNat) ∧
        (∀ pg off, off < 0x1000 → t.pageByte pg off =
          if start ≤ 0x1000 * pg + off then data.getD (0x1000 * pg + off - start) 0 else 0) ∧
        start + data.length ≤ 0x1000 * im.pageCount ∧ 1 ≤ im.pageCount ∧
        (1 < im.pageCount → 0x1000 * (im.pageCount - 1) < start + data.length) ∧
        ImageCanonical t

/-- R341, R381: NextSample. A rate that is not a positive integer is refused. While the play flag is clear it answers 0 and changes nothing
(R348). Otherwise the debt takes the quota, and there is a run `u 0, …, u n` from there: while a state owes, its step's cost
is taken off the debt. The answer is the sample of the first state that owes nothing, or the very fault that the step of
an owing state answers, which its stopped state holds. The debt of the last state is above minus the cost of the last step
(or no step was owed). -/
def Obligations.NextSamplePaysTheDebt : Prop :=
  (∀ (s : State) (rate : Rat), (¬ ∃ k : Nat, 0 < k ∧ rate = k) →
    nextSample rate s = .refused .rateNotPositiveInteger ∧
      hostStep (.nextSample rate) s = (.refused .rateNotPositiveInteger, s)) ∧
  ∀ (s : State) (rate : Nat), s.cfg.wellFormed = true → s.started = true → s.fault = none → 0 < rate →
    (s.playing = false → nextSample rate s = .next ⟨0, s⟩) ∧
    (s.playing = true →
      ∃ (n : Nat) (u : Nat → State),
        u 0 = { s with debt := s.debt + s.cfg.cpuHz / rate } ∧
        (∀ j, j < n → 0 < (u j).debt ∧
          ∃ t, step (u j) = .next t ∧ u (j + 1) = { t with debt := t.debt - t.cost }) ∧
        (n = 0 ∨ -((u n).cost : Rat) < (u n).debt) ∧
        (((u n).debt ≤ 0 ∧ nextSample rate s = .next ⟨(u n).sample, u n⟩) ∨
          ∃ f t, 0 < (u n).debt ∧ step (u n) = .fault (.core f t) ∧ nextSample rate s = .fault (.core f t) ∧
            t.fault = some f))

/-! ### The invariant -/

/-- The reset state meets the invariant. Its blank image and its sentinels are the model's choices (log entries 2 and 3). -/
def Obligations.ResetMeetsTheInvariant : Prop :=
  State.reset.Inv ∧ State.reset.started = true

/-- R308, R296, R260, R283, R34 and the canonical form of memory: every step keeps the invariant, from every state that
meets it. -/
def Obligations.StepKeepsTheInvariant : Prop :=
  ∀ s t : State, s.Inv → step s = .next t → t.Inv
end

