-- ==== Sys2Proof/Laws/Config.lean ====
section
/-! SUPPORT. What a well-formed configuration gives (R8), clause by clause. -/

namespace Sys2Proof

/-- The clauses of R8 in the form later proofs use. -/
structure Config.Facts (c : Config) : Prop where
  noisePeriod : ∀ k : Fin 16, 1 ≤ c.noisePeriod[k]
  dmcRate : ∀ k : Fin 16, 1 ≤ c.dmcRate[k]
  playPeriod : 1 ≤ c.playPeriod
  haltCost : 1 ≤ c.haltCost
  sentinels : c.sentinelInit ≠ c.sentinelPlay
  duty : ∀ (d : Fin 4) (k : Fin 8), c.duty[d][k] ≤ 1
  cpuHz : 0 < c.cpuHz
  sweepLimit : c.sweepLimit ≤ 4095
  pulseMin : 1 ≤ c.pulseMinPeriod
  lengths : ∀ k : Fin 32, c.lengthTable[k] ≤ 255
  ramSize : 0x200 ≤ c.ramSize
  bankTop : c.bankBase + 7 < 0x8000
  bankBottom : 0x4017 < c.bankBase

/-- What a check of all entries of a table says of each entry. -/
theorem Vector.all_get {α : Type} {n : Nat} {v : Vector α n} {p : α → Bool} (h : v.toList.all p = true) (k : Fin n) :
    p v[k] = true :=
  List.all_eq_true.1 h _ (by simp)

theorem Config.facts {c : Config} (h : c.wellFormed = true) : c.Facts := by
  simp only [Config.wellFormed, Bool.and_eq_true] at h
  obtain ⟨⟨⟨⟨⟨⟨⟨⟨⟨h1, h2⟩, h3⟩, h4⟩, h5⟩, h6⟩, h7⟩, h8⟩, h9⟩, h10⟩ := h
  simp only [Config.ratesPositive, Config.periodsPositive, Config.sentinelsDiffer, Config.cpuHzPositive,
    Config.sweepLimitFits, Config.pulseMinPositive, Config.ramHoldsStack, Config.bankBaseFits, Bool.and_eq_true,
    decide_eq_true_eq] at h1 h2 h3 h5 h6 h7 h9 h10
  exact
    { noisePeriod := fun k => by simpa using Vector.all_get h1.1 k
      dmcRate := fun k => by simpa using Vector.all_get h1.2 k
      playPeriod := h2.1
      haltCost := h2.2
      sentinels := h3
      duty := fun d k => by simpa using Vector.all_get (Vector.all_get h4 d) k
      cpuHz := h5
      sweepLimit := h6
      pulseMin := h7
      lengths := fun k => by simpa using Vector.all_get h8 k
      ramSize := h9
      bankTop := h10.1
      bankBottom := h10.2 }

end Sys2Proof
end

