-- ==== Sys2Proof/Laws/Memory.lean ====
section
/-! SUPPORT. The laws of sparse bytes: read after write, and that a write keeps the canonical form. -/

namespace Sys2Proof.Machine

/-- An index below every listed one reads as unlisted. -/
theorem Memory.read_below {m : Memory} {k : Nat} (h : ∀ c ∈ m, k < c.1) : m.read k = Memory.unlisted := by
  induction m with
  | nil => rfl
  | cons c m ih =>
    obtain ⟨i, b⟩ := c
    have hne : k ≠ i := by have := h (i, b) (by simp); simp at this; omega
    simp only [Memory.read, hne, if_false]
    exact ih (fun q hq => h q (List.mem_cons_of_mem _ hq))

/-- Reading back a write: the byte written at its index, the old byte everywhere else. -/
theorem Memory.read_write (m : Memory) (k j : Nat) (v : Byte) (h : m.Pairwise (fun p q => p.1 < q.1)) :
    (m.write k v).read j = if j = k then v else m.read j := by
  induction m with
  | nil =>
    by_cases hv : v = Memory.unlisted
    · simp [Memory.write, Memory.read, hv]
    · simp [Memory.write, Memory.read, hv]
  | cons c m ih =>
    obtain ⟨i, b⟩ := c
    obtain ⟨hlt, hm⟩ := List.pairwise_cons.1 h
    have hread : ∀ j, j ≤ i → Memory.read m j = Memory.unlisted := fun j hj =>
      Memory.read_below fun c hc => lt_of_le_of_lt hj (hlt c hc)
    simp only [Memory.write]
    split
    · rename_i hk
      split
      · rename_i hv
        by_cases hj : j = k
        · subst hj
          have hji : j ≠ i := by omega
          simp [Memory.read, hji, hread j (by omega), hv]
        · simp [hj]
      · simp [Memory.read]
    · split
      · rename_i hk
        subst hk
        split
        · rename_i hv
          by_cases hj : j = k
          · subst hj; simp [hread j le_rfl, hv]
          · simp [hj, Memory.read]
        · by_cases hj : j = k <;> simp [hj, Memory.read]
      · simp only [Memory.read, ih hm]
        by_cases hj : j = i
        · subst hj
          have : j ≠ k := by omega
          simp [this]
        · simp [hj]

/-- A write leaves every other index, in any list of cells. -/
theorem Memory.read_write_ne (m : Memory) {k j : Nat} (v : Byte) (h : j ≠ k) : (m.write k v).read j = m.read j := by
  induction m with
  | nil =>
    simp only [Memory.write]
    split
    · rfl
    · simp [Memory.read, h]
  | cons c m ih =>
    obtain ⟨i, b⟩ := c
    simp only [Memory.write]
    split
    · split
      · rfl
      · simp [Memory.read, h]
    · split
      · rename_i hk
        subst hk
        split <;> simp [Memory.read, h]
      · simp only [Memory.read, ih]

/-- The cells of a written memory are the new cell and old cells at other indexes. -/
theorem Memory.mem_write {m : Memory} {k : Nat} {v : Byte} {c : Host.Cell} (h : c ∈ m.write k v) :
    (c = (k, v) ∧ v ≠ Memory.unlisted) ∨ (c ∈ m ∧ (m.Pairwise (fun p q => p.1 < q.1) → c.1 ≠ k)) := by
  induction m with
  | nil =>
    simp only [Memory.write] at h
    split at h <;> simp_all
  | cons d m ih =>
    obtain ⟨i, b⟩ := d
    simp only [Memory.write] at h
    split at h
    · rename_i hk
      have hold : c ∈ (i, b) :: m →
          c ∈ (i, b) :: m ∧ (((i, b) :: m).Pairwise (fun p q => p.1 < q.1) → c.1 ≠ k) := by
        intro hc
        refine ⟨hc, fun hp => ?_⟩
        rcases List.mem_cons.1 hc with rfl | hc'
        · simp; omega
        · have := (List.pairwise_cons.1 hp).1 c hc'
          simp at this
          omega
      split at h
      · exact .inr (hold h)
      · rename_i hv
        rcases List.mem_cons.1 h with h | h
        · exact .inl ⟨h, hv⟩
        · exact .inr (hold h)
    · split at h
      · rename_i hk
        have hold : c ∈ m →
            c ∈ (i, b) :: m ∧ (((i, b) :: m).Pairwise (fun p q => p.1 < q.1) → c.1 ≠ k) := by
          intro hc
          refine ⟨List.mem_cons_of_mem _ hc, fun hp => ?_⟩
          have := (List.pairwise_cons.1 hp).1 c hc
          simp at this
          omega
        split at h
        · exact .inr (hold h)
        · rename_i hv
          rcases List.mem_cons.1 h with h | h
          · exact .inl ⟨h, hv⟩
          · exact .inr (hold h)
      · rcases List.mem_cons.1 h with rfl | h
        · exact .inr ⟨by simp, fun _ => by simp; omega⟩
        · rcases ih h with h | ⟨h1, h2⟩
          · exact .inl h
          · exact .inr ⟨List.mem_cons_of_mem _ h1, fun hp => h2 (List.pairwise_cons.1 hp).2⟩

/-- A write keeps the canonical form. -/
theorem Memory.write_wf {m : Memory} (k : Nat) (v : Byte) (h : m.wf) : (m.write k v).wf := by
  refine ⟨?_, fun c hc => ?_⟩
  · obtain ⟨hp, -⟩ := h
    induction m with
    | nil =>
      simp only [Memory.write]
      split <;> simp
    | cons d m ih =>
      obtain ⟨i, b⟩ := d
      obtain ⟨hlt, hm⟩ := List.pairwise_cons.1 hp
      simp only [Memory.write]
      split
      · rename_i hk
        split
        · exact hp
        · refine List.pairwise_cons.2 ⟨fun c hc => ?_, hp⟩
          rcases List.mem_cons.1 hc with rfl | hc
          · exact hk
          · exact lt_trans hk (hlt c hc)
      · split
        · rename_i hk
          subst hk
          split
          · exact hm
          · exact List.pairwise_cons.2 ⟨hlt, hm⟩
        · refine List.pairwise_cons.2 ⟨fun c hc => ?_, ih hm⟩
          rcases Memory.mem_write hc with ⟨rfl, -⟩ | ⟨hc, -⟩
          · simp; omega
          · exact hlt c hc
  · rcases Memory.mem_write hc with ⟨rfl, hv⟩ | ⟨hc, -⟩
    · exact hv
    · exact h.2 c hc

/-- A write keeps every index below a bound that its own index is below. -/
theorem Memory.write_lt {m : Memory} {n : Nat} (k : Nat) (v : Byte) (h : ∀ c ∈ m, c.1 < n) (hk : k < n) :
    ∀ c ∈ m.write k v, c.1 < n := by
  intro c hc
  rcases Memory.mem_write hc with ⟨rfl, -⟩ | ⟨hc, -⟩
  · exact hk
  · exact h c hc

/-- Two memories in canonical form that read the same at every index are the same data. -/
theorem Memory.ext_read {m n : Memory} (hm : m.wf) (hn : n.wf) (h : ∀ k, m.read k = n.read k) : m = n := by
  induction m generalizing n with
  | nil =>
    cases n with
    | nil => rfl
    | cons d n =>
      obtain ⟨j, b⟩ := d
      have := h j
      simp only [Memory.read, if_true] at this
      exact absurd this.symm (hn.2 (j, b) (by simp))
  | cons c m ih =>
    obtain ⟨i, a⟩ := c
    cases n with
    | nil =>
      have := h i
      simp only [Memory.read, if_true] at this
      exact absurd this (hm.2 (i, a) (by simp))
    | cons d n =>
      obtain ⟨j, b⟩ := d
      obtain ⟨hmi, hmp⟩ := List.pairwise_cons.1 hm.1
      obtain ⟨hnj, hnp⟩ := List.pairwise_cons.1 hn.1
      have ha : a ≠ 0 := hm.2 (i, a) (by simp)
      have hb : b ≠ 0 := hn.2 (j, b) (by simp)
      have hij : i = j := by
        rcases lt_trichotomy i j with hlt | heq | hgt
        · have h1 := h i
          have h2 : Memory.read ((j, b) :: n) i = Memory.unlisted := by
            refine Memory.read_below fun c hc => ?_
            rcases List.mem_cons.1 hc with rfl | hc
            · exact hlt
            · exact lt_trans hlt (hnj c hc)
          rw [h2] at h1
          simp only [Memory.read, if_true] at h1
          exact absurd h1 ha
        · exact heq
        · have h1 := h j
          have h2 : Memory.read ((i, a) :: m) j = Memory.unlisted := by
            refine Memory.read_below fun c hc => ?_
            rcases List.mem_cons.1 hc with rfl | hc
            · exact hgt
            · exact lt_trans hgt (hmi c hc)
          rw [h2] at h1
          simp only [Memory.read, if_true] at h1
          exact absurd h1.symm hb
      subst hij
      have hab : a = b := by simpa [Memory.read] using h i
      subst hab
      have hrest : m = n := by
        refine ih ⟨hmp, fun q hq => hm.2 q (List.mem_cons_of_mem _ hq)⟩
          ⟨hnp, fun q hq => hn.2 q (List.mem_cons_of_mem _ hq)⟩ fun k => ?_
        by_cases hk : k = i
        · subst hk
          rw [Memory.read_below hmi, Memory.read_below hnj]
        · simpa [Memory.read, hk] using h k
      rw [hrest]

end Sys2Proof.Machine
end

