-- ==== Sys2Proof/Laws/State.lean ====
section
/-! SUPPORT. What each named update of the state does to each field: one lemma per field per update, true by rfl. -/

namespace Sys2Proof.Machine

variable (s : State)

/-! ### `State.ramWrite` -/

@[simp] theorem State.ramWrite_a (w : Word) (v : Byte) : (s.ramWrite w v).a = s.a := rfl
@[simp] theorem State.ramWrite_x (w : Word) (v : Byte) : (s.ramWrite w v).x = s.x := rfl
@[simp] theorem State.ramWrite_y (w : Word) (v : Byte) : (s.ramWrite w v).y = s.y := rfl
@[simp] theorem State.ramWrite_sp (w : Word) (v : Byte) : (s.ramWrite w v).sp = s.sp := rfl
@[simp] theorem State.ramWrite_pc (w : Word) (v : Byte) : (s.ramWrite w v).pc = s.pc := rfl
@[simp] theorem State.ramWrite_flags (w : Word) (v : Byte) : (s.ramWrite w v).flags = s.flags := rfl
@[simp] theorem State.ramWrite_cost (w : Word) (v : Byte) : (s.ramWrite w v).cost = s.cost := rfl
@[simp] theorem State.ramWrite_halted (w : Word) (v : Byte) : (s.ramWrite w v).halted = s.halted := rfl
@[simp] theorem State.ramWrite_fault (w : Word) (v : Byte) : (s.ramWrite w v).fault = s.fault := rfl
@[simp] theorem State.ramWrite_ram (w : Word) (v : Byte) : (s.ramWrite w v).ram = s.ram.write (w.toNat % s.cfg.ramSize) v := rfl
@[simp] theorem State.ramWrite_select (w : Word) (v : Byte) : (s.ramWrite w v).select = s.select := rfl
@[simp] theorem State.ramWrite_apu (w : Word) (v : Byte) : (s.ramWrite w v).apu = s.apu := rfl
@[simp] theorem State.ramWrite_debt (w : Word) (v : Byte) : (s.ramWrite w v).debt = s.debt := rfl
@[simp] theorem State.ramWrite_frameClock (w : Word) (v : Byte) : (s.ramWrite w v).frameClock = s.frameClock := rfl
@[simp] theorem State.ramWrite_playing (w : Word) (v : Byte) : (s.ramWrite w v).playing = s.playing := rfl
@[simp] theorem State.ramWrite_currentSong (w : Word) (v : Byte) : (s.ramWrite w v).currentSong = s.currentSong := rfl
@[simp] theorem State.ramWrite_cfg (w : Word) (v : Byte) : (s.ramWrite w v).cfg = s.cfg := rfl
@[simp] theorem State.ramWrite_image (w : Word) (v : Byte) : (s.ramWrite w v).image = s.image := rfl
@[simp] theorem State.ramWrite_started (w : Word) (v : Byte) : (s.ramWrite w v).started = s.started := rfl

/-! ### `State.bankWrite` -/

@[simp] theorem State.bankWrite_a (k : Nat) (v : Byte) : (s.bankWrite k v).a = s.a := rfl
@[simp] theorem State.bankWrite_x (k : Nat) (v : Byte) : (s.bankWrite k v).x = s.x := rfl
@[simp] theorem State.bankWrite_y (k : Nat) (v : Byte) : (s.bankWrite k v).y = s.y := rfl
@[simp] theorem State.bankWrite_sp (k : Nat) (v : Byte) : (s.bankWrite k v).sp = s.sp := rfl
@[simp] theorem State.bankWrite_pc (k : Nat) (v : Byte) : (s.bankWrite k v).pc = s.pc := rfl
@[simp] theorem State.bankWrite_flags (k : Nat) (v : Byte) : (s.bankWrite k v).flags = s.flags := rfl
@[simp] theorem State.bankWrite_cost (k : Nat) (v : Byte) : (s.bankWrite k v).cost = s.cost := rfl
@[simp] theorem State.bankWrite_halted (k : Nat) (v : Byte) : (s.bankWrite k v).halted = s.halted := rfl
@[simp] theorem State.bankWrite_fault (k : Nat) (v : Byte) : (s.bankWrite k v).fault = s.fault := rfl
@[simp] theorem State.bankWrite_ram (k : Nat) (v : Byte) : (s.bankWrite k v).ram = s.ram := rfl
@[simp] theorem State.bankWrite_select (k : Nat) (v : Byte) : (s.bankWrite k v).select = s.select.setIfInBounds k v.toNat := rfl
@[simp] theorem State.bankWrite_apu (k : Nat) (v : Byte) : (s.bankWrite k v).apu = s.apu := rfl
@[simp] theorem State.bankWrite_debt (k : Nat) (v : Byte) : (s.bankWrite k v).debt = s.debt := rfl
@[simp] theorem State.bankWrite_frameClock (k : Nat) (v : Byte) : (s.bankWrite k v).frameClock = s.frameClock := rfl
@[simp] theorem State.bankWrite_playing (k : Nat) (v : Byte) : (s.bankWrite k v).playing = s.playing := rfl
@[simp] theorem State.bankWrite_currentSong (k : Nat) (v : Byte) : (s.bankWrite k v).currentSong = s.currentSong := rfl
@[simp] theorem State.bankWrite_cfg (k : Nat) (v : Byte) : (s.bankWrite k v).cfg = s.cfg := rfl
@[simp] theorem State.bankWrite_image (k : Nat) (v : Byte) : (s.bankWrite k v).image = s.image := rfl
@[simp] theorem State.bankWrite_started (k : Nat) (v : Byte) : (s.bankWrite k v).started = s.started := rfl

/-! ### `State.push` -/

@[simp] theorem State.push_a (v : Byte) : (s.push v).a = s.a := rfl
@[simp] theorem State.push_x (v : Byte) : (s.push v).x = s.x := rfl
@[simp] theorem State.push_y (v : Byte) : (s.push v).y = s.y := rfl
@[simp] theorem State.push_sp (v : Byte) : (s.push v).sp = s.sp - 1 := rfl
@[simp] theorem State.push_pc (v : Byte) : (s.push v).pc = s.pc := rfl
@[simp] theorem State.push_flags (v : Byte) : (s.push v).flags = s.flags := rfl
@[simp] theorem State.push_cost (v : Byte) : (s.push v).cost = s.cost := rfl
@[simp] theorem State.push_halted (v : Byte) : (s.push v).halted = s.halted := rfl
@[simp] theorem State.push_fault (v : Byte) : (s.push v).fault = s.fault := rfl
@[simp] theorem State.push_ram (v : Byte) : (s.push v).ram = s.ram.write ((stackAddr s.sp).toNat % s.cfg.ramSize) v := rfl
@[simp] theorem State.push_select (v : Byte) : (s.push v).select = s.select := rfl
@[simp] theorem State.push_apu (v : Byte) : (s.push v).apu = s.apu := rfl
@[simp] theorem State.push_debt (v : Byte) : (s.push v).debt = s.debt := rfl
@[simp] theorem State.push_frameClock (v : Byte) : (s.push v).frameClock = s.frameClock := rfl
@[simp] theorem State.push_playing (v : Byte) : (s.push v).playing = s.playing := rfl
@[simp] theorem State.push_currentSong (v : Byte) : (s.push v).currentSong = s.currentSong := rfl
@[simp] theorem State.push_cfg (v : Byte) : (s.push v).cfg = s.cfg := rfl
@[simp] theorem State.push_image (v : Byte) : (s.push v).image = s.image := rfl
@[simp] theorem State.push_started (v : Byte) : (s.push v).started = s.started := rfl

/-! ### `State.pop` -/

@[simp] theorem State.pop_a : (s.pop).a = s.a := rfl
@[simp] theorem State.pop_x : (s.pop).x = s.x := rfl
@[simp] theorem State.pop_y : (s.pop).y = s.y := rfl
@[simp] theorem State.pop_sp : (s.pop).sp = s.sp + 1 := rfl
@[simp] theorem State.pop_pc : (s.pop).pc = s.pc := rfl
@[simp] theorem State.pop_flags : (s.pop).flags = s.flags := rfl
@[simp] theorem State.pop_cost : (s.pop).cost = s.cost := rfl
@[simp] theorem State.pop_halted : (s.pop).halted = s.halted := rfl
@[simp] theorem State.pop_fault : (s.pop).fault = s.fault := rfl
@[simp] theorem State.pop_ram : (s.pop).ram = s.ram := rfl
@[simp] theorem State.pop_select : (s.pop).select = s.select := rfl
@[simp] theorem State.pop_apu : (s.pop).apu = s.apu := rfl
@[simp] theorem State.pop_debt : (s.pop).debt = s.debt := rfl
@[simp] theorem State.pop_frameClock : (s.pop).frameClock = s.frameClock := rfl
@[simp] theorem State.pop_playing : (s.pop).playing = s.playing := rfl
@[simp] theorem State.pop_currentSong : (s.pop).currentSong = s.currentSong := rfl
@[simp] theorem State.pop_cfg : (s.pop).cfg = s.cfg := rfl
@[simp] theorem State.pop_image : (s.pop).image = s.image := rfl
@[simp] theorem State.pop_started : (s.pop).started = s.started := rfl

/-! ### `State.push16` -/

@[simp] theorem State.push16_a (w : Word) : (s.push16 w).a = s.a := rfl
@[simp] theorem State.push16_x (w : Word) : (s.push16 w).x = s.x := rfl
@[simp] theorem State.push16_y (w : Word) : (s.push16 w).y = s.y := rfl
@[simp] theorem State.push16_sp (w : Word) : (s.push16 w).sp = s.sp - 1 - 1 := rfl
@[simp] theorem State.push16_pc (w : Word) : (s.push16 w).pc = s.pc := rfl
@[simp] theorem State.push16_flags (w : Word) : (s.push16 w).flags = s.flags := rfl
@[simp] theorem State.push16_cost (w : Word) : (s.push16 w).cost = s.cost := rfl
@[simp] theorem State.push16_halted (w : Word) : (s.push16 w).halted = s.halted := rfl
@[simp] theorem State.push16_fault (w : Word) : (s.push16 w).fault = s.fault := rfl
@[simp] theorem State.push16_select (w : Word) : (s.push16 w).select = s.select := rfl
@[simp] theorem State.push16_apu (w : Word) : (s.push16 w).apu = s.apu := rfl
@[simp] theorem State.push16_debt (w : Word) : (s.push16 w).debt = s.debt := rfl
@[simp] theorem State.push16_frameClock (w : Word) : (s.push16 w).frameClock = s.frameClock := rfl
@[simp] theorem State.push16_playing (w : Word) : (s.push16 w).playing = s.playing := rfl
@[simp] theorem State.push16_currentSong (w : Word) : (s.push16 w).currentSong = s.currentSong := rfl
@[simp] theorem State.push16_cfg (w : Word) : (s.push16 w).cfg = s.cfg := rfl
@[simp] theorem State.push16_image (w : Word) : (s.push16 w).image = s.image := rfl
@[simp] theorem State.push16_started (w : Word) : (s.push16 w).started = s.started := rfl

/-! ### `State.charge` -/

@[simp] theorem State.charge_a (n : Nat) : (s.charge n).a = s.a := rfl
@[simp] theorem State.charge_x (n : Nat) : (s.charge n).x = s.x := rfl
@[simp] theorem State.charge_y (n : Nat) : (s.charge n).y = s.y := rfl
@[simp] theorem State.charge_sp (n : Nat) : (s.charge n).sp = s.sp := rfl
@[simp] theorem State.charge_pc (n : Nat) : (s.charge n).pc = s.pc := rfl
@[simp] theorem State.charge_flags (n : Nat) : (s.charge n).flags = s.flags := rfl
@[simp] theorem State.charge_cost (n : Nat) : (s.charge n).cost = n + s.apu.dmc.stallPending := rfl
@[simp] theorem State.charge_halted (n : Nat) : (s.charge n).halted = s.halted := rfl
@[simp] theorem State.charge_fault (n : Nat) : (s.charge n).fault = s.fault := rfl
@[simp] theorem State.charge_ram (n : Nat) : (s.charge n).ram = s.ram := rfl
@[simp] theorem State.charge_select (n : Nat) : (s.charge n).select = s.select := rfl
@[simp] theorem State.charge_apu (n : Nat) : (s.charge n).apu = { s.apu with dmc := { s.apu.dmc with stallPending := 0 } } := rfl
@[simp] theorem State.charge_debt (n : Nat) : (s.charge n).debt = s.debt := rfl
@[simp] theorem State.charge_frameClock (n : Nat) : (s.charge n).frameClock = s.frameClock := rfl
@[simp] theorem State.charge_playing (n : Nat) : (s.charge n).playing = s.playing := rfl
@[simp] theorem State.charge_currentSong (n : Nat) : (s.charge n).currentSong = s.currentSong := rfl
@[simp] theorem State.charge_cfg (n : Nat) : (s.charge n).cfg = s.cfg := rfl
@[simp] theorem State.charge_image (n : Nat) : (s.charge n).image = s.image := rfl
@[simp] theorem State.charge_started (n : Nat) : (s.charge n).started = s.started := rfl

/-! ### `State.advance` -/

@[simp] theorem State.advance_a (n : Nat) : (s.advance n).a = s.a := rfl
@[simp] theorem State.advance_x (n : Nat) : (s.advance n).x = s.x := rfl
@[simp] theorem State.advance_y (n : Nat) : (s.advance n).y = s.y := rfl
@[simp] theorem State.advance_sp (n : Nat) : (s.advance n).sp = s.sp := rfl
@[simp] theorem State.advance_pc (n : Nat) : (s.advance n).pc = s.pc + BitVec.ofNat 16 n := rfl
@[simp] theorem State.advance_flags (n : Nat) : (s.advance n).flags = s.flags := rfl
@[simp] theorem State.advance_cost (n : Nat) : (s.advance n).cost = s.cost := rfl
@[simp] theorem State.advance_halted (n : Nat) : (s.advance n).halted = s.halted := rfl
@[simp] theorem State.advance_fault (n : Nat) : (s.advance n).fault = s.fault := rfl
@[simp] theorem State.advance_ram (n : Nat) : (s.advance n).ram = s.ram := rfl
@[simp] theorem State.advance_select (n : Nat) : (s.advance n).select = s.select := rfl
@[simp] theorem State.advance_apu (n : Nat) : (s.advance n).apu = s.apu := rfl
@[simp] theorem State.advance_debt (n : Nat) : (s.advance n).debt = s.debt := rfl
@[simp] theorem State.advance_frameClock (n : Nat) : (s.advance n).frameClock = s.frameClock := rfl
@[simp] theorem State.advance_playing (n : Nat) : (s.advance n).playing = s.playing := rfl
@[simp] theorem State.advance_currentSong (n : Nat) : (s.advance n).currentSong = s.currentSong := rfl
@[simp] theorem State.advance_cfg (n : Nat) : (s.advance n).cfg = s.cfg := rfl
@[simp] theorem State.advance_image (n : Nat) : (s.advance n).image = s.image := rfl
@[simp] theorem State.advance_started (n : Nat) : (s.advance n).started = s.started := rfl

/-! ### `State.loadA` -/

@[simp] theorem State.loadA_a (v : Byte) : (s.loadA v).a = v := rfl
@[simp] theorem State.loadA_x (v : Byte) : (s.loadA v).x = s.x := rfl
@[simp] theorem State.loadA_y (v : Byte) : (s.loadA v).y = s.y := rfl
@[simp] theorem State.loadA_sp (v : Byte) : (s.loadA v).sp = s.sp := rfl
@[simp] theorem State.loadA_pc (v : Byte) : (s.loadA v).pc = s.pc := rfl
@[simp] theorem State.loadA_flags (v : Byte) : (s.loadA v).flags = s.flags.setNZ v := rfl
@[simp] theorem State.loadA_cost (v : Byte) : (s.loadA v).cost = s.cost := rfl
@[simp] theorem State.loadA_halted (v : Byte) : (s.loadA v).halted = s.halted := rfl
@[simp] theorem State.loadA_fault (v : Byte) : (s.loadA v).fault = s.fault := rfl
@[simp] theorem State.loadA_ram (v : Byte) : (s.loadA v).ram = s.ram := rfl
@[simp] theorem State.loadA_select (v : Byte) : (s.loadA v).select = s.select := rfl
@[simp] theorem State.loadA_apu (v : Byte) : (s.loadA v).apu = s.apu := rfl
@[simp] theorem State.loadA_debt (v : Byte) : (s.loadA v).debt = s.debt := rfl
@[simp] theorem State.loadA_frameClock (v : Byte) : (s.loadA v).frameClock = s.frameClock := rfl
@[simp] theorem State.loadA_playing (v : Byte) : (s.loadA v).playing = s.playing := rfl
@[simp] theorem State.loadA_currentSong (v : Byte) : (s.loadA v).currentSong = s.currentSong := rfl
@[simp] theorem State.loadA_cfg (v : Byte) : (s.loadA v).cfg = s.cfg := rfl
@[simp] theorem State.loadA_image (v : Byte) : (s.loadA v).image = s.image := rfl
@[simp] theorem State.loadA_started (v : Byte) : (s.loadA v).started = s.started := rfl

/-! ### `State.loadX` -/

@[simp] theorem State.loadX_a (v : Byte) : (s.loadX v).a = s.a := rfl
@[simp] theorem State.loadX_x (v : Byte) : (s.loadX v).x = v := rfl
@[simp] theorem State.loadX_y (v : Byte) : (s.loadX v).y = s.y := rfl
@[simp] theorem State.loadX_sp (v : Byte) : (s.loadX v).sp = s.sp := rfl
@[simp] theorem State.loadX_pc (v : Byte) : (s.loadX v).pc = s.pc := rfl
@[simp] theorem State.loadX_flags (v : Byte) : (s.loadX v).flags = s.flags.setNZ v := rfl
@[simp] theorem State.loadX_cost (v : Byte) : (s.loadX v).cost = s.cost := rfl
@[simp] theorem State.loadX_halted (v : Byte) : (s.loadX v).halted = s.halted := rfl
@[simp] theorem State.loadX_fault (v : Byte) : (s.loadX v).fault = s.fault := rfl
@[simp] theorem State.loadX_ram (v : Byte) : (s.loadX v).ram = s.ram := rfl
@[simp] theorem State.loadX_select (v : Byte) : (s.loadX v).select = s.select := rfl
@[simp] theorem State.loadX_apu (v : Byte) : (s.loadX v).apu = s.apu := rfl
@[simp] theorem State.loadX_debt (v : Byte) : (s.loadX v).debt = s.debt := rfl
@[simp] theorem State.loadX_frameClock (v : Byte) : (s.loadX v).frameClock = s.frameClock := rfl
@[simp] theorem State.loadX_playing (v : Byte) : (s.loadX v).playing = s.playing := rfl
@[simp] theorem State.loadX_currentSong (v : Byte) : (s.loadX v).currentSong = s.currentSong := rfl
@[simp] theorem State.loadX_cfg (v : Byte) : (s.loadX v).cfg = s.cfg := rfl
@[simp] theorem State.loadX_image (v : Byte) : (s.loadX v).image = s.image := rfl
@[simp] theorem State.loadX_started (v : Byte) : (s.loadX v).started = s.started := rfl

/-! ### `State.loadY` -/

@[simp] theorem State.loadY_a (v : Byte) : (s.loadY v).a = s.a := rfl
@[simp] theorem State.loadY_x (v : Byte) : (s.loadY v).x = s.x := rfl
@[simp] theorem State.loadY_y (v : Byte) : (s.loadY v).y = v := rfl
@[simp] theorem State.loadY_sp (v : Byte) : (s.loadY v).sp = s.sp := rfl
@[simp] theorem State.loadY_pc (v : Byte) : (s.loadY v).pc = s.pc := rfl
@[simp] theorem State.loadY_flags (v : Byte) : (s.loadY v).flags = s.flags.setNZ v := rfl
@[simp] theorem State.loadY_cost (v : Byte) : (s.loadY v).cost = s.cost := rfl
@[simp] theorem State.loadY_halted (v : Byte) : (s.loadY v).halted = s.halted := rfl
@[simp] theorem State.loadY_fault (v : Byte) : (s.loadY v).fault = s.fault := rfl
@[simp] theorem State.loadY_ram (v : Byte) : (s.loadY v).ram = s.ram := rfl
@[simp] theorem State.loadY_select (v : Byte) : (s.loadY v).select = s.select := rfl
@[simp] theorem State.loadY_apu (v : Byte) : (s.loadY v).apu = s.apu := rfl
@[simp] theorem State.loadY_debt (v : Byte) : (s.loadY v).debt = s.debt := rfl
@[simp] theorem State.loadY_frameClock (v : Byte) : (s.loadY v).frameClock = s.frameClock := rfl
@[simp] theorem State.loadY_playing (v : Byte) : (s.loadY v).playing = s.playing := rfl
@[simp] theorem State.loadY_currentSong (v : Byte) : (s.loadY v).currentSong = s.currentSong := rfl
@[simp] theorem State.loadY_cfg (v : Byte) : (s.loadY v).cfg = s.cfg := rfl
@[simp] theorem State.loadY_image (v : Byte) : (s.loadY v).image = s.image := rfl
@[simp] theorem State.loadY_started (v : Byte) : (s.loadY v).started = s.started := rfl

/-! ### `State.withDmc` -/

@[simp] theorem State.withDmc_a (d : Dmc) : (s.withDmc d).a = s.a := rfl
@[simp] theorem State.withDmc_x (d : Dmc) : (s.withDmc d).x = s.x := rfl
@[simp] theorem State.withDmc_y (d : Dmc) : (s.withDmc d).y = s.y := rfl
@[simp] theorem State.withDmc_sp (d : Dmc) : (s.withDmc d).sp = s.sp := rfl
@[simp] theorem State.withDmc_pc (d : Dmc) : (s.withDmc d).pc = s.pc := rfl
@[simp] theorem State.withDmc_flags (d : Dmc) : (s.withDmc d).flags = s.flags := rfl
@[simp] theorem State.withDmc_cost (d : Dmc) : (s.withDmc d).cost = s.cost := rfl
@[simp] theorem State.withDmc_halted (d : Dmc) : (s.withDmc d).halted = s.halted := rfl
@[simp] theorem State.withDmc_fault (d : Dmc) : (s.withDmc d).fault = s.fault := rfl
@[simp] theorem State.withDmc_ram (d : Dmc) : (s.withDmc d).ram = s.ram := rfl
@[simp] theorem State.withDmc_select (d : Dmc) : (s.withDmc d).select = s.select := rfl
@[simp] theorem State.withDmc_apu (d : Dmc) : (s.withDmc d).apu = { s.apu with dmc := d } := rfl
@[simp] theorem State.withDmc_debt (d : Dmc) : (s.withDmc d).debt = s.debt := rfl
@[simp] theorem State.withDmc_frameClock (d : Dmc) : (s.withDmc d).frameClock = s.frameClock := rfl
@[simp] theorem State.withDmc_playing (d : Dmc) : (s.withDmc d).playing = s.playing := rfl
@[simp] theorem State.withDmc_currentSong (d : Dmc) : (s.withDmc d).currentSong = s.currentSong := rfl
@[simp] theorem State.withDmc_cfg (d : Dmc) : (s.withDmc d).cfg = s.cfg := rfl
@[simp] theorem State.withDmc_image (d : Dmc) : (s.withDmc d).image = s.image := rfl
@[simp] theorem State.withDmc_started (d : Dmc) : (s.withDmc d).started = s.started := rfl

end Sys2Proof.Machine
end

