-- ==== Sys2Proof/Laws/Ops.lean ====
section
/-! SUPPORT. What the address space and the stack can do: one inversion lemma of the write decode, the agreement of the
stack and zero-page accesses with the decode, and the bytes a write leaves alone. -/

namespace Sys2Proof.Machine

/-! ### Reads -/

theorem memRead_low {s : State} {a : Word} (h : a < 0x8000) : s.memRead a = .ok (s.ramRead a) := by
  rw [State.memRead, if_pos h]

/-- A read depends on RAM, the page selection, the configuration and the image alone (R55, R56). -/
theorem memRead_congr {s t : State} (hram : t.ram = s.ram) (hsel : t.select = s.select) (hcfg : t.cfg = s.cfg)
    (him : t.image = s.image) (a : Word) : t.memRead a = s.memRead a := by
  cases s
  cases t
  subst hram hsel hcfg him
  rfl

theorem memRead2_congr {s t : State} (hram : t.ram = s.ram) (hsel : t.select = s.select) (hcfg : t.cfg = s.cfg)
    (him : t.image = s.image) (a : Word) : t.memRead2 a = s.memRead2 a := by
  simp only [State.memRead2, memRead_congr hram hsel hcfg him]

/-- Above RAM a read does not depend on RAM (R55). -/
theorem memRead_high_congr {s t : State} {a : Word} (h : ¬ a < 0x8000) (hsel : s.pageOf a = t.pageOf a)
    (hcfg : t.cfg = s.cfg) (him : t.image = s.image) : t.memRead a = s.memRead a := by
  rw [State.memRead, State.memRead, if_neg h, if_neg h]
  simp only [State.pageCount, State.pageByte, hsel, hcfg, him]

/-- The only fault of a read (R373). -/
theorem memRead_error {s : State} {a : Word} {f : CoreFault} (h : s.memRead a = .error f) :
    0x8000 ≤ a ∧ s.cfg.bankOor = .fault ∧ s.pageCount ≤ s.pageOf a ∧ f = .bankOutOfRange a (s.pageOf a) := by
  simp only [State.memRead] at h
  split at h
  · cases h
  · rename_i h1
    split at h
    · cases h
    · rename_i h2
      split at h
      · cases h
      · rename_i h3
        cases h
        exact ⟨by bv_omega, h3, by omega, rfl⟩

/-- With P_BANK_OOR = Zero every read answers a byte. -/
theorem memRead_ok {s : State} (h : s.cfg.bankOor = .zero) (a : Word) : ∃ b, s.memRead a = .ok b := by
  cases hr : s.memRead a with
  | ok b => exact ⟨b, rfl⟩
  | error f => have := (memRead_error hr).2.1; rw [h] at this; cases this

/-! ### Writes -/

/-- Everything the write decode can do (R57). -/
theorem memWrite_cases {s t : State} {a : Word} {v : Byte} (h : s.memWrite a v = .ok t) :
    (a < 0x2000 ∧ t = s.ramWrite a v) ∨
    (0x4000 ≤ a ∧ a ≤ 0x4015 ∧ t = { s with apu := apuWrite s.cfg a v s.apu }) ∨
    (a = 0x4017 ∧ t = { s with apu := frameModeWrite v s.apu }) ∨
    (0x2000 ≤ a ∧ s.isBankAddr a = true ∧ t = s.bankWrite (a.toNat - s.cfg.bankBase) v) ∨
    (0x2000 ≤ a ∧ s.cfg.unmappedWrite = .ignore ∧ t = s) := by
  simp only [State.memWrite] at h
  split at h
  · cases h; exact .inl ⟨‹_›, rfl⟩
  · have ha : (0x2000 : Word) ≤ a := by bv_omega
    split at h
    · rename_i h2; cases h; exact .inr (.inl ⟨h2.1, h2.2, rfl⟩)
    · split at h
      · cases h; exact .inr (.inr (.inl ⟨‹_›, rfl⟩))
      · split at h
        · cases h; exact .inr (.inr (.inr (.inl ⟨ha, ‹_›, rfl⟩)))
        · split at h
          · cases h; exact .inr (.inr (.inr (.inr ⟨ha, ‹_›, rfl⟩)))
          · cases h

theorem memWrite_low {s : State} {a : Word} {v : Byte} (h : a < 0x2000) : s.memWrite a v = .ok (s.ramWrite a v) := by
  rw [State.memWrite, if_pos h]

/-- The only fault of a write (R375). -/
theorem memWrite_error {s : State} {a : Word} {v : Byte} {f : CoreFault} (h : s.memWrite a v = .error f) :
    s.cfg.unmappedWrite = .fault ∧ f = .unmappedWrite a v := by
  simp only [State.memWrite] at h
  repeat' split at h
  all_goals first | cases h; exact ⟨‹_›, rfl⟩ | cases h

/-- With P_UNMAPPED_WRITE = Ignore every write is done. -/
theorem memWrite_ok {s : State} (h : s.cfg.unmappedWrite = .ignore) (a : Word) (v : Byte) :
    ∃ t, s.memWrite a v = .ok t := by
  cases hw : s.memWrite a v with
  | ok t => exact ⟨t, rfl⟩
  | error f => have := (memWrite_error hw).1; rw [h] at this; cases this

/-- A write changes nothing but RAM, the page selection and the APU. -/
theorem memWrite_frame {s t : State} {a : Word} {v : Byte} (h : s.memWrite a v = .ok t) :
    t = { s with ram := t.ram, select := t.select, apu := t.apu } := by
  rcases memWrite_cases h with ⟨-, rfl⟩ | ⟨-, -, rfl⟩ | ⟨-, rfl⟩ | ⟨-, -, rfl⟩ | ⟨-, -, rfl⟩ <;> rfl

/-- A property of both branches of a conditional is a property of the conditional. -/
theorem ite_holds {α : Type} {P : α → Prop} {c : Prop} [Decidable c] {x y : α} (hx : P x) (hy : P y) :
    P (if c then x else y) := by
  split
  · exact hx
  · exact hy

/-- Everything an APU register write can do (R242 to R256): a property of each register's effect is a property of the
write. -/
theorem apuWrite_holds {P : Apu → Prop} (c : Config) (a : Word) (v : Byte) (p : Apu)
    (h0 : P { p with pulse1 := p.pulse1.writeDutyVolume v }) (h1 : P { p with pulse1 := p.pulse1.writeSweep v })
    (h2 : P { p with pulse1 := p.pulse1.writeTimerLow v }) (h3 : P { p with pulse1 := p.pulse1.writeTimerHigh c v })
    (h4 : P { p with pulse2 := p.pulse2.writeDutyVolume v }) (h5 : P { p with pulse2 := p.pulse2.writeSweep v })
    (h6 : P { p with pulse2 := p.pulse2.writeTimerLow v }) (h7 : P { p with pulse2 := p.pulse2.writeTimerHigh c v })
    (h8 : P { p with triangle := p.triangle.writeLinear v })
    (hA : P { p with triangle := p.triangle.writeTimerLow v })
    (hB : P { p with triangle := p.triangle.writeTimerHigh c v })
    (hC : P { p with noise := p.noise.writeVolume v }) (hE : P { p with noise := p.noise.writeMode v })
    (hF : P { p with noise := p.noise.writeLength c v }) (h10 : P { p with dmc := p.dmc.writeFlags v })
    (h11 : P { p with dmc := p.dmc.writeLevel v }) (h12 : P { p with dmc := { p.dmc with addrReg := v } })
    (h13 : P { p with dmc := { p.dmc with lenReg := v } }) (h15 : P (p.writeEnable v)) (hn : P p) :
    P (apuWrite c a v p) :=
  ite_holds h0 <| ite_holds h1 <| ite_holds h2 <| ite_holds h3 <| ite_holds h4 <| ite_holds h5 <| ite_holds h6 <|
    ite_holds h7 <| ite_holds h8 <| ite_holds hA <| ite_holds hB <| ite_holds hC <| ite_holds hE <| ite_holds hF <|
    ite_holds h10 <| ite_holds h11 <| ite_holds h12 <| ite_holds h13 <| ite_holds h15 hn

/-- Everything the DMC's part of a channel-enable write can do (R254). -/
theorem Dmc.writeEnable_cases (on : Bool) (d : Dmc) :
    (on = true ∧ d.bytesRemaining = 0 ∧ d.writeEnable on = { d.restart with enabled := true }) ∨
    (on = true ∧ 0 < d.bytesRemaining ∧ d.writeEnable on = { d with enabled := true }) ∨
    (on = false ∧ d.writeEnable on = { d with enabled := false, bytesRemaining := 0 }) := by
  cases on with
  | false => exact .inr (.inr ⟨rfl, rfl⟩)
  | true =>
    by_cases h : d.bytesRemaining = 0
    · exact .inl ⟨rfl, h, by simp [Dmc.writeEnable, Dmc.restart, h]⟩
    · exact .inr (.inl ⟨rfl, by omega, by simp [Dmc.writeEnable, h]⟩)

/-- A write leaves the pending stall (no register holds it). -/
theorem apuWrite_stall (c : Config) (a : Word) (v : Byte) (p : Apu) :
    (apuWrite c a v p).dmc.stallPending = p.dmc.stallPending := by
  refine apuWrite_holds (P := fun q => q.dmc.stallPending = p.dmc.stallPending) c a v p
    rfl rfl rfl rfl rfl rfl rfl rfl rfl rfl rfl rfl rfl rfl rfl rfl rfl rfl ?_ rfl
  show (p.dmc.writeEnable (v.getLsbD 4)).stallPending = p.dmc.stallPending
  rcases p.dmc.writeEnable_cases (v.getLsbD 4) with ⟨-, -, h⟩ | ⟨-, -, h⟩ | ⟨-, h⟩
  · rw [h]; rfl
  · rw [h]
  · rw [h]

theorem memWrite_stall {s t : State} {a : Word} {v : Byte} (h : s.memWrite a v = .ok t) :
    t.apu.dmc.stallPending = s.apu.dmc.stallPending := by
  rcases memWrite_cases h with ⟨-, rfl⟩ | ⟨-, -, rfl⟩ | ⟨-, rfl⟩ | ⟨-, -, rfl⟩ | ⟨-, -, rfl⟩
  · rfl
  · exact apuWrite_stall ..
  · rfl
  · rfl
  · rfl

/-- What a write gives does not depend on the registers, the flags and the program counter: it commutes with any change of
them. -/
theorem memWrite_with {s t : State} {a : Word} {v : Byte} (h : s.memWrite a v = .ok t) (ra rx ry rs : Byte) (pc : Word)
    (fl : Flags) (cost : Nat) (halted : Bool) :
    State.memWrite a v { s with a := ra, x := rx, y := ry, sp := rs, pc := pc, flags := fl, cost := cost,
                                halted := halted } =
      .ok { t with a := ra, x := rx, y := ry, sp := rs, pc := pc, flags := fl, cost := cost, halted := halted } := by
  unfold State.memWrite at h
  unfold State.memWrite
  show (if a < 0x2000 then _ else if 0x4000 ≤ a ∧ a ≤ 0x4015 then _ else if a = 0x4017 then _
    else if s.isBankAddr a then _ else
      match s.cfg.unmappedWrite with
      | .ignore => _
      | .fault => _) = _
  by_cases h1 : a < 0x2000
  · rw [if_pos h1] at h ⊢; cases h; rfl
  rw [if_neg h1] at h ⊢
  by_cases h2 : 0x4000 ≤ a ∧ a ≤ 0x4015
  · rw [if_pos h2] at h ⊢; cases h; rfl
  rw [if_neg h2] at h ⊢
  by_cases h3 : a = 0x4017
  · rw [if_pos h3] at h ⊢; cases h; rfl
  rw [if_neg h3] at h ⊢
  by_cases h4 : s.isBankAddr a
  · rw [if_pos h4] at h ⊢; cases h; rfl
  rw [if_neg h4] at h ⊢
  cases hu : s.cfg.unmappedWrite with
  | ignore => rw [hu] at h; cases h; rfl
  | fault => rw [hu] at h; cases h

/-! ### The stack and page zero are RAM -/

/-- A write that faults does so whatever the flags are. -/
theorem memWrite_error_flags {s : State} {a : Word} {v : Byte} {f : CoreFault} (h : s.memWrite a v = .error f)
    (g : Flags) : State.memWrite a v { s with flags := g } = .error f := by
  unfold State.memWrite at h ⊢
  split at h
  · cases h
  rename_i h1
  split at h
  · cases h
  rename_i h2
  split at h
  · cases h
  rename_i h3
  split at h
  · cases h
  rename_i h4
  rw [if_neg h1, if_neg h2, if_neg h3, if_neg (by exact h4)]
  cases hu : s.cfg.unmappedWrite
  · rw [hu] at h
    cases h
  · rw [hu] at h
    cases h
    rfl

theorem stackAddr_toNat (sp : Byte) : (stackAddr sp).toNat = 0x100 + sp.toNat := by
  have := sp.isLt
  have h : (sp.setWidth 16).toNat = sp.toNat := by simp [BitVec.toNat_setWidth]; omega
  rw [stackAddr, BitVec.toNat_add, h]
  show (0x100 + sp.toNat) % 65536 = _
  omega

theorem stackAddr_lt (sp : Byte) : stackAddr sp < 0x2000 := by
  have := stackAddr_toNat sp
  have := sp.isLt
  bv_omega

theorem stackAddr_low (sp : Byte) : stackAddr sp < 0x8000 := by
  have := stackAddr_lt sp
  bv_omega

theorem zeroPage_low (z : Byte) : zeroPage z < 0x8000 := by
  have h : (zeroPage z).toNat = z.toNat := by
    have := z.isLt
    simp only [zeroPage, BitVec.toNat_setWidth]
    omega
  have := z.isLt
  bv_omega

/-- `push` writes through the write decode (R27). -/
theorem memWrite_stackAddr (s : State) (v : Byte) :
    s.memWrite (stackAddr s.sp) v = .ok (s.ramWrite (stackAddr s.sp) v) :=
  memWrite_low (stackAddr_lt _)

/-- `pull` reads through the read decode (R27). -/
theorem memRead_stackAddr (s : State) : s.memRead (stackAddr (s.sp + 1)) = .ok s.top :=
  memRead_low (stackAddr_low _)

/-- A zero-page pointer is read through the read decode (R119, R120). -/
theorem memRead_zeroPage (s : State) (z : Byte) : s.memRead (zeroPage z) = .ok (s.ramRead (zeroPage z)) :=
  memRead_low (zeroPage_low _)

/-! ### Reading RAM after writing it -/

theorem ramRead_ramWrite {s : State} (hwf : s.ram.Pairwise (fun p q => p.1 < q.1)) (a b : Word) (v : Byte) :
    (s.ramWrite a v).ramRead b =
      if b.toNat % s.cfg.ramSize = a.toNat % s.cfg.ramSize then v else s.ramRead b := by
  simp only [State.ramRead, State.ramWrite_ram, State.ramWrite_cfg]
  exact Memory.read_write _ _ _ _ hwf

/-- A RAM write leaves every address that is no mirror of its cell. -/
theorem memRead_ramWrite_ne (s : State) {a b : Word} (v : Byte)
    (h : ¬ (b < 0x8000 ∧ b.toNat % s.cfg.ramSize = a.toNat % s.cfg.ramSize)) :
    (s.ramWrite a v).memRead b = s.memRead b := by
  by_cases hb : b < 0x8000
  · rw [memRead_low hb, memRead_low hb]
    exact congrArg Except.ok (Memory.read_write_ne _ _ (fun he => h ⟨hb, he⟩))
  · exact memRead_high_congr hb rfl rfl rfl

theorem memRead_ramWrite {s : State} (hwf : s.ram.Pairwise (fun p q => p.1 < q.1)) (a b : Word) (v : Byte) :
    (s.ramWrite a v).memRead b =
      if b < 0x8000 ∧ b.toNat % s.cfg.ramSize = a.toNat % s.cfg.ramSize then .ok v else s.memRead b := by
  by_cases hb : b < 0x8000
  · rw [memRead_low hb, memRead_low hb, ramRead_ramWrite hwf]
    by_cases hi : b.toNat % s.cfg.ramSize = a.toNat % s.cfg.ramSize
    · rw [if_pos hi, if_pos ⟨hb, hi⟩]
    · rw [if_neg hi, if_neg (fun h => hi h.2)]
  · simp only [hb, false_and, if_false]
    exact memRead_high_congr hb rfl rfl rfl

end Sys2Proof.Machine
end

