-- ==== Sys2Proof/Laws/Apu.lean ====
section
/-! SUPPORT. The APU's range invariant (`ApuInRange`) under each of its operations: register writes, the frame sequencer
and its units, and the channel clocks. Beside it: what a noise shift is (`noiseShift_eq`), and that the DMC clock and the other
channels do not see each other (`dmcClock_waves`). -/

namespace Sys2Proof.Machine

variable {c : Config} {p : Apu}

/-! ### Register writes -/

theorem lengthLoad_le (hc : c.Facts) (v : Byte) : lengthLoad c v ≤ 255 :=
  hc.lengths ⟨(bits v 3 5).toNat, (bits v 3 5).isLt⟩

theorem enabledLength_le {on : Bool} {n : Nat} (h : n ≤ 255) : enabledLength on n ≤ 255 := by
  unfold enabledLength
  split <;> omega

/-- A timer write leaves a period of 11 bits where it was one (R244, R245, R283). -/
theorem Pulse.writeTimerLow_period (v : Byte) {q : Pulse} (h : q.period.toNat < 2048) :
    (q.writeTimerLow v).period.toNat < 2048 := by
  have hv := v.isLt
  show ((q.period &&& 0xF00) ||| v.setWidth 12).toNat < 2 ^ 11
  rw [BitVec.toNat_or, BitVec.toNat_and]
  refine Nat.or_lt_two_pow (lt_of_le_of_lt Nat.and_le_left (by omega)) ?_
  rw [BitVec.toNat_setWidth]
  omega

theorem Pulse.writeTimerHigh_period (v : Byte) (q : Pulse) : (q.writeTimerHigh c v).period.toNat < 2048 := by
  have hv := (bits v 0 3).isLt
  show (((bits v 0 3).setWidth 12 <<< 8) ||| (q.period &&& 0x0FF)).toNat < 2 ^ 11
  rw [BitVec.toNat_or, BitVec.toNat_and, BitVec.toNat_shiftLeft, BitVec.toNat_setWidth, Nat.shiftLeft_eq]
  refine Nat.or_lt_two_pow (lt_of_le_of_lt (Nat.mod_le _ _) ?_) (lt_of_le_of_lt Nat.and_le_right (by decide))
  rw [Nat.mod_eq_of_lt (by omega)]
  omega

theorem Dmc.restart_addr (d : Dmc) : 0xC000 ≤ d.restart.curAddr := by
  have h := d.addrReg.isLt
  show (0xC000 : Word) ≤ 0xC000 + 64 * d.addrReg.setWidth 16
  bv_omega

theorem Dmc.writeEnable_inRange {on : Bool} {d : Dmc} (h : DmcInRange c d) : DmcInRange c (d.writeEnable on) := by
  obtain ⟨h1, h2, h3, h4, h5⟩ := h
  have hr := d.restart_addr
  have hl := d.lenReg.isLt
  rcases d.writeEnable_cases on with ⟨-, -, h⟩ | ⟨-, -, h⟩ | ⟨-, h⟩ <;> rw [h]
  · refine ⟨h1, ?_, h3, h4, fun _ => ?_⟩
    · show 16 * d.lenReg.toNat + 1 ≤ 4081
      omega
    · show (0x8000 : Word) ≤ d.restart.curAddr
      bv_omega
  · exact ⟨h1, h2, h3, h4, h5⟩
  · exact ⟨h1, Nat.zero_le _, h3, h4, fun h => absurd h (lt_irrefl 0)⟩

/-- A register write keeps the APU in range (R241). -/
theorem apuWrite_inRange (hc : c.Facts) (a : Word) (v : Byte) (h : ApuInRange c p) :
    ApuInRange c (apuWrite c a v p) := by
  obtain ⟨⟨a1, a2, a3⟩, ⟨b1, b2, b3⟩, ht, ⟨n1, n2, n3⟩, hd, hs⟩ := h
  have h1 : PulseInRange c p.pulse1 := ⟨a1, a2, a3⟩
  have h2 : PulseInRange c p.pulse2 := ⟨b1, b2, b3⟩
  have hn : NoiseInRange c p.noise := ⟨n1, n2, n3⟩
  have hl := lengthLoad_le hc v
  have hlev : (bits v 0 7).toNat >>> 1 ≤ 63 := by
    have := (bits v 0 7).isLt
    rw [Nat.shiftRight_eq_div_pow]
    omega
  refine apuWrite_holds (P := ApuInRange c) c a v p
    ⟨⟨a1, a2, a3⟩, h2, ht, hn, hd, hs⟩ ⟨⟨a1, a2, a3⟩, h2, ht, hn, hd, hs⟩
    ⟨⟨fun h => Pulse.writeTimerLow_period v (a1 h), a2, a3⟩, h2, ht, hn, hd, hs⟩
    ⟨⟨fun _ => Pulse.writeTimerHigh_period v _, hl, a3⟩, h2, ht, hn, hd, hs⟩
    ⟨h1, ⟨b1, b2, b3⟩, ht, hn, hd, hs⟩ ⟨h1, ⟨b1, b2, b3⟩, ht, hn, hd, hs⟩
    ⟨h1, ⟨fun h => Pulse.writeTimerLow_period v (b1 h), b2, b3⟩, ht, hn, hd, hs⟩
    ⟨h1, ⟨fun _ => Pulse.writeTimerHigh_period v _, hl, b3⟩, ht, hn, hd, hs⟩
    ⟨h1, h2, ht, hn, hd, hs⟩ ⟨h1, h2, ht, hn, hd, hs⟩ ⟨h1, h2, hl, hn, hd, hs⟩
    ⟨h1, h2, ht, ⟨n1, n2, n3⟩, hd, hs⟩ ⟨h1, h2, ht, ⟨n1, n2, n3⟩, hd, hs⟩
    ⟨h1, h2, ht, ⟨n1, hl, n3⟩, hd, hs⟩ ⟨h1, h2, ht, hn, hd, hs⟩
    ⟨h1, h2, ht, hn, ⟨hlev, hd.2⟩, hs⟩ ⟨h1, h2, ht, hn, hd, hs⟩ ⟨h1, h2, ht, hn, hd, hs⟩
    ⟨⟨a1, enabledLength_le a2, a3⟩, ⟨b1, enabledLength_le b2, b3⟩, enabledLength_le ht,
      ⟨n1, enabledLength_le n2, n3⟩, Dmc.writeEnable_inRange hd, hs⟩
    ⟨h1, h2, ht, hn, hd, hs⟩

theorem frameModeWrite_inRange (v : Byte) (h : ApuInRange c p) : ApuInRange c (frameModeWrite v p) := by
  refine ⟨h.1, h.2.1, h.2.2.1, h.2.2.2.1, h.2.2.2.2.1, ?_, Nat.zero_le _⟩
  show 0 < FrameMode.steps (if v.getLsbD 7 then .five else .four)
  split <;> decide

/-! ### The frame sequencer and its units -/

theorem lengthClock_le {halt : Bool} {n : Nat} (h : n ≤ 255) : lengthClock halt n ≤ 255 := by
  unfold lengthClock
  split <;> omega

theorem Pulse.sweepTarget_nonneg (first : Bool) (q : Pulse)
    (h : q.sweep.shift ≠ 0) (hp : 1 ≤ q.period.toNat) : 0 ≤ q.sweepTarget first := by
  have hs : 1 ≤ q.sweep.shift.toNat := by
    have : q.sweep.shift.toNat ≠ 0 := fun hz => h (BitVec.eq_of_toNat_eq (by simpa using hz))
    omega
  have hle : q.period.toNat >>> q.sweep.shift.toNat ≤ q.period.toNat / 2 := by
    rw [Nat.shiftRight_eq_div_pow]
    exact Nat.div_le_div_left (by simpa using Nat.pow_le_pow_right (by decide : 0 < 2) hs) (by decide)
  simp only [Pulse.sweepTarget]
  generalize q.period.toNat >>> q.sweep.shift.toNat = change at hle ⊢
  split
  · split <;> omega
  · omega

/-- A sweep that updates goes to a target within the limit (R271). -/
theorem Pulse.sweepUpdates_target {first : Bool} {q : Pulse} (hc : c.Facts)
    (h : q.sweepUpdates c first = true) : 0 ≤ q.sweepTarget first ∧ q.sweepTarget first ≤ c.sweepLimit := by
  simp only [Pulse.sweepUpdates, Bool.and_eq_true, Bool.not_eq_true', decide_eq_true_eq] at h
  obtain ⟨⟨⟨⟨-, hen⟩, hsh⟩, hov⟩, hmin⟩ := h
  refine ⟨q.sweepTarget_nonneg first hsh (le_trans hc.pulseMin hmin), ?_⟩
  simp only [Pulse.sweepOverflows, hen, Bool.true_and, decide_eq_false_iff_not, not_lt] at hov
  exact hov

theorem Pulse.sweepClock_period {first : Bool} {q : Pulse} (hc : c.Facts) :
    (q.sweepUpdates c first = true ∧ ((q.sweepClock c first).period.toNat : Int) = q.sweepTarget first) ∨
    (q.sweepUpdates c first = false ∧ (q.sweepClock c first).period = q.period) := by
  cases hu : q.sweepUpdates c first with
  | false => exact .inr ⟨rfl, by simp [Pulse.sweepClock, hu]⟩
  | true =>
    refine .inl ⟨rfl, ?_⟩
    obtain ⟨h0, h1⟩ := Pulse.sweepUpdates_target hc hu
    have := hc.sweepLimit
    simp only [Pulse.sweepClock, hu, if_true, BitVec.toNat_ofInt]
    omega

theorem Pulse.sweepClock_inRange {first : Bool} {q : Pulse} (hc : c.Facts) (h : PulseInRange c q) :
    PulseInRange c (q.sweepClock c first) := by
  refine ⟨fun hl => ?_, h.2.1, h.2.2⟩
  rcases Pulse.sweepClock_period (first := first) (q := q) hc with ⟨hu, heq⟩ | ⟨-, heq⟩
  · have := (Pulse.sweepUpdates_target hc hu).2
    omega
  · rw [heq]
    exact h.1 hl

theorem Apu.quarterFrame_inRange (h : ApuInRange c p) : ApuInRange c p.quarterFrame :=
  h

theorem Apu.halfFrame_inRange (hc : c.Facts) (h : ApuInRange c p) : ApuInRange c (p.halfFrame c) := by
  obtain ⟨⟨a1, a2, a3⟩, ⟨b1, b2, b3⟩, ht, ⟨n1, n2, n3⟩, hd, hs⟩ := h
  exact ⟨Pulse.sweepClock_inRange hc ⟨a1, lengthClock_le a2, a3⟩,
    Pulse.sweepClock_inRange hc ⟨b1, lengthClock_le b2, b3⟩, lengthClock_le ht, ⟨n1, lengthClock_le n2, n3⟩, hd, hs⟩

theorem Apu.frameEvents_inRange (hc : c.Facts) (k : Nat) (h : ApuInRange c p) : ApuInRange c (p.frameEvents c k) := by
  unfold Apu.frameEvents
  have hq : ApuInRange c (if emitsQuarter k then p.quarterFrame else p) := ite_holds h h
  exact ite_holds (P := ApuInRange c) (Apu.halfFrame_inRange hc hq) hq

/-- A frame event touches neither the sequencer nor the DMC (R263, R264). -/
theorem Apu.frameEvents_frame (k : Nat) : (p.frameEvents c k).seq = p.seq ∧ (p.frameEvents c k).dmc = p.dmc := by
  unfold Apu.frameEvents
  split <;> split <;> exact ⟨rfl, rfl⟩

/-- The step that follows a step of a mode is one of that mode. -/
theorem FrameMode.next_lt (m : FrameMode) (k : Nat) : (k + 1) % m.steps < m.steps :=
  Nat.mod_lt _ (by cases m <;> decide)

/-- Firing lowers the accumulator (R261). -/
theorem Apu.fireStep_acc (h : p.threshold c < p.seq.acc) : (p.fireStep c).seq.acc < p.seq.acc := by
  show (match c.fsReset with | .zero => 0 | .carry => p.seq.acc - (p.threshold c + 1)) < p.seq.acc
  split <;> omega

/-- With a fuel of at least the accumulator, the loop of R261 ends with the accumulator at or below the threshold. -/
theorem Apu.fireSteps_done (fuel : Nat) (p : Apu) (h : p.seq.acc ≤ fuel) :
    (p.fireSteps c fuel).seq.acc ≤ (p.fireSteps c fuel).threshold c := by
  induction fuel generalizing p with
  | zero =>
    show p.seq.acc ≤ p.threshold c
    omega
  | succ n ih =>
    by_cases hf : p.threshold c < p.seq.acc
    · have := Apu.fireStep_acc hf
      rw [Apu.fireSteps, if_pos hf]
      exact ih _ (by omega)
    · rw [Apu.fireSteps, if_neg hf]
      omega

/-- What the loop keeps: a property of an APU that every fired step keeps. -/
theorem Apu.fireSteps_holds {P : Apu → Prop} (hP : ∀ q, P q → P (q.fireStep c)) (fuel : Nat) (p : Apu) (h : P p) :
    P (p.fireSteps c fuel) := by
  induction fuel generalizing p with
  | zero => exact h
  | succ n ih =>
    rw [Apu.fireSteps]
    exact ite_holds (ih _ (hP p h)) h

/-- The APU in range but for the accumulator, which R261 has just advanced. -/
def ApuInRangeUnfired (c : Config) (p : Apu) : Prop :=
  PulseInRange c p.pulse1 ∧ PulseInRange c p.pulse2 ∧ p.triangle.length ≤ 255 ∧ NoiseInRange c p.noise ∧
    DmcInRange c p.dmc ∧ p.seq.step < p.seq.mode.steps

theorem Apu.fireStep_inRange (hc : c.Facts) (h : ApuInRangeUnfired c p) : ApuInRangeUnfired c (p.fireStep c) := by
  have hz : ApuInRange c { p with seq := { p.seq with acc := 0 } } :=
    ⟨h.1, h.2.1, h.2.2.1, h.2.2.2.1, h.2.2.2.2.1, h.2.2.2.2.2, Nat.zero_le _⟩
  have he := Apu.frameEvents_inRange hc p.seq.step hz
  have hsame : { (Apu.frameEvents c p.seq.step { p with seq := { p.seq with acc := 0 } }) with seq := p.seq } =
      { p.frameEvents c p.seq.step with seq := p.seq } := by
    unfold Apu.frameEvents
    split <;> split <;> rfl
  have hd : ∀ (q r : Apu) (t : FrameSeq), { q with seq := p.seq } = { r with seq := p.seq } →
      ({ q with seq := t } : Apu) = { r with seq := t } := by
    rintro ⟨⟩ ⟨⟩ t h
    simp only [Apu.mk.injEq] at h ⊢
    exact ⟨h.1, h.2.1, h.2.2.1, h.2.2.2.1, h.2.2.2.2.1, trivial⟩
  have h1 := hd _ _ (p.fireStep c).seq hsame
  have h2 : p.fireStep c = { p.frameEvents c p.seq.step with seq := (p.fireStep c).seq } := rfl
  rw [h2, ← h1]
  exact ⟨he.1, he.2.1, he.2.2.1, he.2.2.2.1, he.2.2.2.2.1, p.seq.mode.next_lt _⟩

/-- `fs_advance` keeps the APU in range (R261). -/
theorem Apu.advanceFrame_inRange (hc : c.Facts) (d : Nat) (h : ApuInRange c p) :
    ApuInRange c (p.advanceFrame c d) := by
  have hr : ApuInRangeUnfired c (p.advanceFrame c d) :=
    Apu.fireSteps_holds (P := ApuInRangeUnfired c) (fun q hq => Apu.fireStep_inRange hc hq) _ _
      ⟨h.1, h.2.1, h.2.2.1, h.2.2.2.1, h.2.2.2.2.1, h.2.2.2.2.2.1⟩
  exact ⟨hr.1, hr.2.1, hr.2.2.1, hr.2.2.2.1, hr.2.2.2.2.1, hr.2.2.2.2.2, Apu.fireSteps_done _ _ le_rfl⟩

/-- `fs_advance` leaves the DMC. -/
theorem Apu.advanceFrame_dmc (d : Nat) (p : Apu) : (p.advanceFrame c d).dmc = p.dmc :=
  Apu.fireSteps_holds (P := fun q => q.dmc = p.dmc)
    (fun q hq => (Apu.frameEvents_frame (c := c) (p := q) q.seq.step).2.trans hq) _ _ rfl

/-! ### The channel clocks -/

theorem Pulse.clock_inRange {q : Pulse} (h : PulseInRange c q) : PulseInRange c (q.clock c) := by
  obtain ⟨h1, h2, h3⟩ := h
  have hp := q.period.isLt
  unfold Pulse.clock
  split
  · exact ⟨h1, h2, h3⟩
  · split
    · refine ⟨h1, h2, ?_⟩
      show 2 * (q.period.toNat + 1) - 1 < 8192
      omega
    · refine ⟨h1, h2, ?_⟩
      show q.timer - 1 < 8192
      omega

theorem Triangle.clock_length (t : Triangle) : (t.clock c).length = t.length := by
  unfold Triangle.clock
  split
  · rfl
  · split <;> rfl

/-- A shift of the noise register drops bit 0 and takes the feedback in at bit 14 (R296). -/
theorem noiseShift_eq (mode : Bool) (l : BitVec 15) :
    noiseShift mode l = BitVec.ofBool (noiseFeedback mode l) ++ l.extractLsb' 1 14 := by
  unfold noiseShift
  generalize noiseFeedback mode l = b
  apply BitVec.eq_of_getLsbD_eq
  intro i hi
  rw [BitVec.getLsbD_or, BitVec.getLsbD_append, BitVec.getLsbD_ushiftRight, BitVec.getLsbD_extractLsb',
    BitVec.getLsbD_shiftLeft, BitVec.getLsbD_setWidth]
  by_cases h : i < 14
  · simp [h, hi]
  · obtain rfl : i = 14 := by omega
    simp

/-- A shift of the noise register never gives 0 from a nonzero register (R296). -/
theorem noiseShift_ne_zero (mode : Bool) (l : BitVec 15) (h : l ≠ 0) : noiseShift mode l ≠ 0 := by
  intro hz
  have hbit : ∀ i, i < 15 → (noiseShift mode l).getLsbD i = false := fun i _ => by rw [hz]; simp
  have hhigh : ∀ i, i < 14 → l.getLsbD (i + 1) = false := by
    intro i hi
    have := hbit i (by omega)
    simp only [noiseShift, BitVec.getLsbD_or, BitVec.getLsbD_ushiftRight, BitVec.getLsbD_shiftLeft, Bool.or_eq_false_iff]
      at this
    rw [Nat.add_comm]
    exact this.1
  have hfb := hbit 14 (by omega)
  simp [noiseShift, noiseFeedback] at hfb
  have h0 : l.getLsbD 0 = false := by
    have h1 := hhigh 0 (by omega)
    have h6 := hhigh 5 (by omega)
    cases mode <;> simp_all
  apply h
  apply BitVec.eq_of_getLsbD_eq
  intro i hi
  rcases i with _ | i
  · simpa using h0
  · simpa using hhigh i (by omega)

theorem Noise.clock_inRange {n : Noise} (hc : c.Facts) (h : NoiseInRange c n) : NoiseInRange c (n.clock c) := by
  obtain ⟨h1, h2, k, h3⟩ := h
  unfold Noise.clock
  split
  · refine ⟨noiseShift_ne_zero _ _ h1, h2, ⟨n.periodIndex.toNat, n.periodIndex.isLt⟩, ?_⟩
    have := hc.noisePeriod ⟨n.periodIndex.toNat, n.periodIndex.isLt⟩
    show c.noisePeriod[n.periodIndex.toNat]'n.periodIndex.isLt - 1 < c.noisePeriod[n.periodIndex.toNat]'n.periodIndex.isLt
    have h' : 1 ≤ c.noisePeriod[n.periodIndex.toNat]'n.periodIndex.isLt := this
    omega
  · refine ⟨h1, h2, k, ?_⟩
    show n.timer - 1 < _
    omega

theorem Apu.clockWaves_inRange (hc : c.Facts) (h : ApuInRange c p) : ApuInRange c (p.clockWaves c) :=
  ⟨Pulse.clock_inRange h.1, Pulse.clock_inRange h.2.1, by
    show (p.triangle.clock c).length ≤ 255
    rw [Triangle.clock_length]
    exact h.2.2.1, Noise.clock_inRange hc h.2.2.2.1, h.2.2.2.2.1, h.2.2.2.2.2⟩

/-! ### The DMC clock -/

theorem Dmc.reloadTimer_inRange {d : Dmc} (hc : c.Facts) (h : DmcInRange c d) : DmcInRange c (d.reloadTimer c) := by
  refine ⟨h.1, h.2.1, h.2.2.1, ⟨⟨d.rateIndex.toNat, d.rateIndex.isLt⟩, ?_⟩, h.2.2.2.2⟩
  have : 1 ≤ c.dmcRate[d.rateIndex.toNat]'d.rateIndex.isLt := hc.dmcRate ⟨d.rateIndex.toNat, d.rateIndex.isLt⟩
  show c.dmcRate[d.rateIndex.toNat]'d.rateIndex.isLt - 1 < c.dmcRate[d.rateIndex.toNat]'d.rateIndex.isLt
  omega

theorem Dmc.outputBit_inRange {d : Dmc} (h : DmcInRange c d) : DmcInRange c d.outputBit := by
  obtain ⟨h1, h2, h3, h4, h5⟩ := h
  unfold Dmc.outputBit
  split
  · refine ⟨?_, h2, ?_, h4, h5⟩
    · show (if d.shift.getLsbD 0 then min 63 (d.level + 1) else d.level - 1) ≤ 63
      split <;> omega
    · show d.bitsLeft - 1 ≤ 8
      omega
  · exact ⟨h1, h2, h3, h4, h5⟩

theorem dmcNextAddr_high {a : Word} (h : 0x8000 ≤ a) : 0x8000 ≤ dmcNextAddr a := by
  unfold dmcNextAddr
  split <;> bv_omega

theorem Dmc.loadByte_inRange {d : Dmc} (b : Byte) (h : DmcInRange c d) (hb : 0 < d.bytesRemaining) :
    DmcInRange c (d.loadByte c b) := by
  obtain ⟨h1, h2, -, h4, h5⟩ := h
  have hl := d.lenReg.isLt
  have hr := d.restart_addr
  unfold Dmc.loadByte
  simp only
  split
  · refine ⟨h1, ?_, le_rfl, h4, fun _ => ?_⟩
    · show 16 * d.lenReg.toNat + 1 ≤ 4081
      omega
    · show (0x8000 : Word) ≤ d.restart.curAddr
      bv_omega
  · refine ⟨h1, ?_, le_rfl, h4, fun _ => dmcNextAddr_high (h5 hb)⟩
    show d.bytesRemaining - 1 ≤ 4081
    omega

/-- The state of an APU in range with another DMC in range. -/
theorem withDmc_inRange {s : State} {d : Dmc} (h : ApuInRange s.cfg s.apu) (hd : DmcInRange s.cfg d) :
    ApuInRange (s.withDmc d).cfg (s.withDmc d).apu :=
  ⟨h.1, h.2.1, h.2.2.1, h.2.2.2.1, hd, h.2.2.2.2.2⟩

/-- Everything the DMC clock can do (R307): it changes the DMC alone, keeps the APU in range, and its only stop is a fetch
that faults. -/
theorem dmcClock_cases (s : State) :
    (∃ d, s.dmcClock = .next (s.withDmc d) ∧ (s.cfg.Facts → DmcInRange s.cfg s.apu.dmc → DmcInRange s.cfg d)) ∨
    (∃ d f, s.memRead s.apu.dmc.curAddr = .error f ∧ s.dmcClock = (s.withDmc d).raise f) := by
  unfold State.dmcClock
  simp only
  by_cases ht : 0 < s.apu.dmc.timer
  · rw [if_pos ht]
    refine .inl ⟨_, rfl, fun _ h => ⟨h.1, h.2.1, h.2.2.1, ?_, h.2.2.2.2⟩⟩
    obtain ⟨k, hk⟩ := h.2.2.2.1
    exact ⟨k, lt_of_le_of_lt (Nat.sub_le _ _) hk⟩
  · rw [if_neg ht]
    by_cases hw : (s.apu.dmc.reloadTimer s.cfg).wantsByte = true
    · rw [if_pos hw]
      have hb : 0 < (s.apu.dmc.reloadTimer s.cfg).bytesRemaining := by
        simp only [Dmc.wantsByte, Bool.and_eq_true, decide_eq_true_eq] at hw
        exact hw.2
      have hcur : (s.apu.dmc.reloadTimer s.cfg).curAddr = s.apu.dmc.curAddr := rfl
      rw [hcur]
      cases hm : s.memRead s.apu.dmc.curAddr with
      | error f => exact .inr ⟨_, f, rfl, rfl⟩
      | ok b =>
        exact .inl ⟨_, rfl, fun hc h =>
          Dmc.outputBit_inRange (Dmc.loadByte_inRange b (Dmc.reloadTimer_inRange hc h) hb)⟩
    · rw [if_neg hw]
      exact .inl ⟨_, rfl, fun hc h => Dmc.outputBit_inRange (Dmc.reloadTimer_inRange hc h)⟩

/-- The DMC clock reads and writes no other channel: with another APU around the same DMC it does the same to the DMC, and
it refuses nothing (R307, R315). -/
theorem dmcClock_waves (s : State) (q : Apu) (hq : q.dmc = s.apu.dmc) :
    (∀ u, s.dmcClock = .next u → u = s.withDmc u.apu.dmc ∧
      ({ s with apu := q } : State).dmcClock = .next { s with apu := { q with dmc := u.apu.dmc } }) ∧
    (∀ f v, s.dmcClock = .fault (.core f v) →
      ({ s with apu := q } : State).dmcClock = State.stopsAt { s with apu := { q with dmc := v.apu.dmc } } f) ∧
    ∀ r, s.dmcClock ≠ .refused r := by
  have hm : ∀ a, ({ s with apu := q } : State).memRead a = s.memRead a := fun _ => rfl
  unfold State.dmcClock
  simp only [hm, hq]
  split_ifs
  · refine ⟨fun u hu => ?_, fun f v h => ?_, fun r h => ?_⟩
    · cases hu; exact ⟨rfl, rfl⟩
    · cases h
    · cases h
  · cases s.memRead (Dmc.reloadTimer s.cfg s.apu.dmc).curAddr with
    | error f =>
      refine ⟨fun u hu => ?_, fun g v h => ?_, fun r h => ?_⟩
      · cases hu
      · cases h; rfl
      · cases h
    | ok b =>
      refine ⟨fun u hu => ?_, fun f v h => ?_, fun r h => ?_⟩
      · cases hu; exact ⟨rfl, rfl⟩
      · cases h
      · cases h
  · refine ⟨fun u hu => ?_, fun f v h => ?_, fun r h => ?_⟩
    · cases hu; exact ⟨rfl, rfl⟩
    · cases h
    · cases h

end Sys2Proof.Machine
end

