-- ==== Sys2Proof/Laws/Encoding.lean ====
section
/-! SUPPORT. The descriptor table as a map: no two rows share an opcode (R95), so a row is found by its own opcode; and what
the decoder does with a row it finds. -/

namespace Sys2Proof

theorem opcodes_distinct : opcodeTable.Pairwise (fun r q => r.opcode ≠ q.opcode) := by
  decide +kernel

/-- In a list of rows with distinct opcodes, a search for a row's opcode finds that row. -/
theorem find_row {rows : List Row} (h : rows.Pairwise (fun r q => r.opcode ≠ q.opcode)) {r : Row} (hr : r ∈ rows) :
    rows.find? (fun q => q.opcode == r.opcode) = some r := by
  induction rows with
  | nil => cases hr
  | cons q rows ih =>
    obtain ⟨hq, hrows⟩ := List.pairwise_cons.1 h
    rcases List.mem_cons.1 hr with rfl | hr
    · simp
    · have : (q.opcode == r.opcode) = false := by simpa using hq r hr
      rw [List.find?_cons, this]
      exact ih hrows hr

theorem findRow_of_mem {r : Row} (h : r ∈ opcodeTable) : findRow r.opcode = some r :=
  find_row opcodes_distinct h

theorem findRow_of_index {k : Nat} {r : Row} (h : opcodeTable[k]? = some r) : findRow r.opcode = some r :=
  findRow_of_mem (List.mem_of_getElem? h)

theorem mem_of_findRow {op : Byte} {r : Row} (h : findRow op = some r) : r ∈ opcodeTable ∧ r.opcode = op :=
  ⟨List.mem_of_find?_eq_some h, by simpa using List.find?_some h⟩

/-- The opcodes of R96: those no row has. -/
theorem findRow_none {op : Byte} : findRow op = none ↔ ∀ r ∈ opcodeTable, r.opcode ≠ op := by
  simp [findRow, List.find?_eq_none]

/-- The instruction that a format makes of operand bytes, if their number is its own (R90). -/
def Form.make : Form → List Byte → Option Instr
  | .f1 i, [] => some i
  | .f2 mk, [b1] => some (mk b1)
  | .f3 mk, [b1, b2] => some (mk (wordOf b1 b2))
  | _, _ => none

/-- What the decoder does with an opcode that has a row (R97): it takes the format's operand bytes. -/
theorem decode_row {op : Byte} {r : Row} (h : findRow op = some r) {bs rest : List Byte} {i : Instr}
    (hm : r.form.make bs = some i) : decode (op :: (bs ++ rest)) = .ok (i, rest) := by
  obtain ⟨ro, rm, rmode, rc, rp, form⟩ := r
  simp only [decode, h]
  cases form with
  | f1 j =>
    match bs with
    | [] => cases hm; rfl
    | _ :: _ => cases hm
  | f2 mk =>
    match bs with
    | [] => cases hm
    | [_] => cases hm; rfl
    | _ :: _ :: _ => cases hm
  | f3 mk =>
    match bs with
    | [] => cases hm
    | [_] => cases hm
    | [_, _] => cases hm; rfl
    | _ :: _ :: _ :: _ => cases hm

theorem decode_unsupported {op : Byte} (h : findRow op = none) (rest : List Byte) :
    decode (op :: rest) = .error (.unsupportedOpcode op) := by
  simp only [decode, h]

/-- A word is the join of its two bytes (R92). -/
theorem wordOf_bytes (w : Word) : wordOf (lowByte w) (highByte w) = w := by
  apply BitVec.eq_of_getLsbD_eq
  intro i hi
  simp only [wordOf, lowByte, highByte, BitVec.getLsbD_append, BitVec.getLsbD_setWidth, BitVec.getLsbD_ushiftRight]
  by_cases h : i < 8
  · simp [h]
  · have h1 : i - 8 < 8 := by omega
    have h2 : 8 + (i - 8) = i := by omega
    simp [h, h1, h2]

theorem lowByte_wordOf (lo up : Byte) : lowByte (wordOf lo up) = lo := by
  apply BitVec.eq_of_getLsbD_eq
  intro i hi
  simp only [wordOf, lowByte, BitVec.getLsbD_setWidth, BitVec.getLsbD_append]
  simp [hi]

theorem highByte_wordOf (lo up : Byte) : highByte (wordOf lo up) = up := by
  apply BitVec.eq_of_getLsbD_eq
  intro i hi
  simp only [wordOf, highByte, BitVec.getLsbD_setWidth, BitVec.getLsbD_ushiftRight, BitVec.getLsbD_append]
  simp [hi]

end Sys2Proof
end

