-- ==== Sys2Proof/Laws/Exec.lean ====
section
/-! SUPPORT. The classes of instructions: for each class, the effect its mnemonics have, and one lemma that says that every
instruction of the class is the shared operation of the class with that effect, at the clocks of R95's table. -/

namespace Sys2Proof.Machine

/-- The effect of a read-class mnemonic but ADC and SBC (R130 to R132, R162 to R168). -/
def readEffect : Mnemonic → Option (Byte → State → State)
  | .lda => some State.loadA
  | .ldx => some State.loadX
  | .ldy => some State.loadY
  | .and => some State.andA
  | .ora => some State.orA
  | .eor => some State.xorA
  | .cmp => some State.compareA
  | .cpx => some State.compareX
  | .cpy => some State.compareY
  | .bit => some State.bitTest
  | _ => none

/-- The effect of ADC and SBC (R160, R161). -/
def arithEffect : Mnemonic → Option (Byte → State → State)
  | .adc => some State.addCarry
  | .sbc => some State.subtractBorrow
  | _ => none

/-- The register a store writes (R133 to R135). -/
def storedRegister : Mnemonic → Option (State → Byte)
  | .sta => some State.a
  | .stx => some State.x
  | .sty => some State.y
  | _ => none

/-- The result and the carry of a read-modify-write mnemonic (R180, R181, R186 to R189). -/
def modifyEffect : Mnemonic → Option ((Bool → Byte → Byte) × (Bool → Byte → Bool))
  | .inc => some (increment, carryKept)
  | .dec => some (decrement, carryKept)
  | .asl => some (shiftLeft, carryOut7)
  | .lsr => some (shiftRight, carryOut0)
  | .rol => some (rotateLeft, carryOut7)
  | .ror => some (rotateRight, carryOut0)
  | _ => none

/-- The effect of an instruction with no operand that goes on to the next one. -/
def impliedEffect : Mnemonic → Option (State → State)
  | .tax => some fun s => s.loadX s.a
  | .tay => some fun s => s.loadY s.a
  | .txa => some fun s => s.loadA s.x
  | .tya => some fun s => s.loadA s.y
  | .tsx => some fun s => s.loadX s.sp
  | .txs => some fun s => { s with sp := s.x }
  | .pha => some fun s => s.push s.a
  | .php => some fun s => s.push s.flags.pushed
  | .pla => some fun s => s.pop.loadA s.top
  | .plp => some fun s => { s.pop with flags := Flags.unpack s.top }
  | .inx => some fun s => s.loadX (s.x + 1)
  | .iny => some fun s => s.loadY (s.y + 1)
  | .dex => some fun s => s.loadX (s.x - 1)
  | .dey => some fun s => s.loadY (s.y - 1)
  | .clc => some fun s => { s with flags := { s.flags with c := false } }
  | .sec => some fun s => { s with flags := { s.flags with c := true } }
  | .cli => some fun s => { s with flags := { s.flags with i := false } }
  | .sei => some fun s => { s with flags := { s.flags with i := true } }
  | .cld => some fun s => { s with flags := { s.flags with d := false } }
  | .sed => some fun s => { s with flags := { s.flags with d := true } }
  | .clv => some fun s => { s with flags := { s.flags with v := false } }
  | .nop => some fun s => s
  | _ => none

/-- The condition of a branch (R204 to R211). -/
def branchTaken : Mnemonic → Option (Flags → Bool)
  | .bcc => some fun f => !f.c
  | .bcs => some fun f => f.c
  | .beq => some fun f => f.z
  | .bne => some fun f => !f.z
  | .bmi => some fun f => f.n
  | .bpl => some fun f => !f.n
  | .bvc => some fun f => !f.v
  | .bvs => some fun f => f.v
  | _ => none

theorem exec_read {i : Instr} {effect : Byte → State → State} (h : readEffect i.mnemonic = some effect) (s : State) :
    exec i s = s.readClass i.operand i.baseClocks i.pageCross effect := by
  cases i <;> first | (cases h; done) | (cases h; rfl)

theorem exec_arith {i : Instr} {effect : Byte → State → State} (h : arithEffect i.mnemonic = some effect) (s : State) :
    exec i s = s.arithClass i.operand i.baseClocks i.pageCross effect := by
  cases i <;> first | (cases h; done) | (cases h; rfl)

theorem exec_store {i : Instr} {reg : State → Byte} (h : storedRegister i.mnemonic = some reg) (s : State) :
    exec i s = s.writeClass i.operand i.baseClocks (reg s) := by
  cases i <;> first | (cases h; done) | (cases h; rfl)

theorem exec_modify {i : Instr} {e : (Bool → Byte → Byte) × (Bool → Byte → Bool)}
    (h : modifyEffect i.mnemonic = some e) (s : State) :
    exec i s = s.modifyClass i.operand i.baseClocks e.1 e.2 := by
  cases i <;> first | (cases h; done) | (cases h; rfl)

theorem exec_implied {i : Instr} {effect : State → State} (h : impliedEffect i.mnemonic = some effect) (s : State) :
    exec i s = s.impliedClass i.baseClocks effect := by
  cases i <;> first | (cases h; done) | (cases h; rfl)

theorem exec_branch {i : Instr} {taken : Flags → Bool} (h : branchTaken i.mnemonic = some taken) (s : State) :
    ∃ r, i.operand = .rel r ∧ exec i s = s.branch i.baseClocks (taken s.flags) r := by
  cases i <;> first | (cases h; done) | (cases h; exact ⟨_, rfl, rfl⟩)

/-- Every instruction is of one of the classes, or one of the six that have a shape of their own. -/
theorem instr_classes (i : Instr) :
    (∃ e, readEffect i.mnemonic = some e) ∨ (∃ e, arithEffect i.mnemonic = some e) ∨
    (∃ e, storedRegister i.mnemonic = some e) ∨ (∃ e, modifyEffect i.mnemonic = some e) ∨
    (∃ e, impliedEffect i.mnemonic = some e ∧ i.operand = .imp) ∨ (∃ e, branchTaken i.mnemonic = some e) ∨
    (∃ w, i = .jmpAbs w) ∨ (∃ w, i = .jmpInd w) ∨ (∃ w, i = .jsr w) ∨ i = .rts ∨ i = .rti ∨ i = .brk := by
  cases i <;> first
    | exact .inl ⟨_, rfl⟩
    | exact .inr (.inl ⟨_, rfl⟩)
    | exact .inr (.inr (.inl ⟨_, rfl⟩))
    | exact .inr (.inr (.inr (.inl ⟨_, rfl⟩)))
    | exact .inr (.inr (.inr (.inr (.inl ⟨_, rfl, rfl⟩))))
    | exact .inr (.inr (.inr (.inr (.inr (.inl ⟨_, rfl⟩)))))
    | exact .inr (.inr (.inr (.inr (.inr (.inr (by simp))))))

/-! ### What each class can do -/

theorem readClass_cases (s : State) (o : Operand) (base : Nat) (flag : Bool) (effect : Byte → State → State) :
    (∃ m, s.readOperand o = .ok m ∧
      s.readClass o base flag effect = .next (((effect m s).advance o.length).charge (base + s.crossClock o flag))) ∨
    (∃ f, s.readOperand o = .error f ∧ s.readClass o base flag effect = s.raise f) := by
  unfold State.readClass
  cases h : s.readOperand o with
  | ok m => exact .inl ⟨m, rfl, rfl⟩
  | error f => exact .inr ⟨f, rfl, rfl⟩

theorem arithClass_cases (s : State) (o : Operand) (base : Nat) (flag : Bool) (effect : Byte → State → State) :
    (s.cfg.decimal = .fault ∧ s.flags.d = true ∧
      s.arithClass o base flag effect = s.raise (.decimalUnsupported s.pc)) ∨
    ((s.cfg.decimal = .fault → s.flags.d = false) ∧
      s.arithClass o base flag effect = s.readClass o base flag effect) := by
  unfold State.arithClass State.decimalFaults
  cases hc : s.cfg.decimal with
  | binary => exact .inr ⟨fun h => (by cases h), rfl⟩
  | fault =>
    cases hd : s.flags.d with
    | true => exact .inl ⟨rfl, rfl, rfl⟩
    | false => exact .inr ⟨fun _ => rfl, rfl⟩

theorem writeClass_cases (s : State) (o : Operand) (base : Nat) (r : Byte) :
    (∃ t, s.writeLoc (s.resolve o).loc r = .ok t ∧
      s.writeClass o base r = .next ((t.advance o.length).charge base)) ∨
    (∃ f, s.writeLoc (s.resolve o).loc r = .error f ∧ s.writeClass o base r = s.raise f) := by
  unfold State.writeClass
  cases h : s.writeLoc (s.resolve o).loc r with
  | ok t => exact .inl ⟨t, rfl, rfl⟩
  | error f => exact .inr ⟨f, rfl, rfl⟩

theorem modifyClass_cases (s : State) (o : Operand) (base : Nat) (result : Bool → Byte → Byte)
    (carry : Bool → Byte → Bool) :
    (∃ f, s.readOperand o = .error f ∧ s.modifyClass o base result carry = s.raise f) ∨
    (∃ v, s.readOperand o = .ok v ∧
      let s1 : State := { s with flags := { s.flags with c := carry s.flags.c v } }
      (∃ t, s1.writeLoc (s.resolve o).loc (result s.flags.c v) = .ok t ∧
        s.modifyClass o base result carry =
          .next (({ t with flags := t.flags.setNZ (result s.flags.c v) }.advance o.length).charge base)) ∨
      (∃ f, s1.writeLoc (s.resolve o).loc (result s.flags.c v) = .error f ∧
        s.modifyClass o base result carry = s1.raise f)) := by
  unfold State.modifyClass State.readOperand
  cases h : s.readLoc (s.resolve o).loc with
  | error f => exact .inl ⟨f, rfl, by simp only [h]⟩
  | ok v =>
    refine .inr ⟨v, rfl, ?_⟩
    simp only [h]
    cases hw : State.writeLoc (s.resolve o).loc (result s.flags.c v)
        { s with flags := { s.flags with c := carry s.flags.c v } } with
    | ok t => exact .inl ⟨t, rfl, rfl⟩
    | error f => exact .inr ⟨f, rfl, rfl⟩

/-- Everything a write to a location can do: the accumulator, or the write decode, or nothing (R125). -/
theorem writeLoc_cases {s t : State} {l : Loc} {r : Byte} (h : s.writeLoc l r = .ok t) :
    t = s ∨ (l = .acc ∧ t = { s with a := r }) ∨ ∃ ea, l = .mem ea ∧ s.memWrite ea r = .ok t := by
  unfold State.writeLoc at h
  cases l with
  | none => cases h; exact .inl rfl
  | acc => cases h; exact .inr (.inl ⟨rfl, rfl⟩)
  | imm v => cases h; exact .inl rfl
  | mem ea => exact .inr (.inr ⟨ea, rfl, h⟩)

/-- Everything a trap can do (R225). -/
theorem trap_cases (s : State) (clocks : Nat) :
    (∃ w, s.trapFrame.memRead2 0xFFFE = .ok w ∧ s.trap clocks = .next ({ s.trapFrame with pc := w }.charge clocks)) ∨
    (∃ f, s.trapFrame.memRead2 0xFFFE = .error f ∧ s.trap clocks = s.trapFrame.raise f) := by
  unfold State.trap
  cases h : s.trapFrame.memRead2 0xFFFE with
  | ok w => exact .inl ⟨w, rfl, rfl⟩
  | error f => exact .inr ⟨f, rfl, rfl⟩

theorem jmpInd_cases (s : State) (w : Word) :
    (∃ target, s.indirectTarget w = .ok target ∧ execJmpInd w s = .next ({ s with pc := target }.charge 5)) ∨
    (∃ f, s.indirectTarget w = .error f ∧ execJmpInd w s = s.raise f) := by
  unfold execJmpInd
  cases h : s.indirectTarget w with
  | ok t => exact .inl ⟨t, rfl, rfl⟩
  | error f => exact .inr ⟨f, rfl, rfl⟩

/-! ### The completed state of each class -/

theorem pageCross_store {i : Instr} {e : State → Byte} (h : storedRegister i.mnemonic = some e) :
    i.pageCross = false := by
  cases i <;> first | (cases h; done) | rfl

theorem pageCross_modify {i : Instr} {e : (Bool → Byte → Byte) × (Bool → Byte → Bool)}
    (h : modifyEffect i.mnemonic = some e) : i.pageCross = false := by
  cases i <;> first | (cases h; done) | rfl

theorem pageCross_implied {i : Instr} {e : State → State} (h : impliedEffect i.mnemonic = some e) :
    i.pageCross = false ∧ i.operand = .imp := by
  cases i <;> first | (cases h; done) | exact ⟨rfl, rfl⟩

/-- The completion of a read-class instruction, as `State.completed` states it. -/
theorem finish_read (i : Instr) (s u : State) (hst : u.apu.dmc.stallPending = s.apu.dmc.stallPending)
    (hpc : u.pc = s.pc) :
    (u.advance i.operand.length).charge (i.baseClocks + s.crossClock i.operand i.pageCross) =
      State.completed i s u := by
  simp [State.completed, State.advance, State.charge, State.crossClock, Instr.extraClocks, hst, hpc]

/-- The completion of an instruction that no page crossing slows. -/
theorem finish_plain (i : Instr) (s u : State) (hst : u.apu.dmc.stallPending = s.apu.dmc.stallPending)
    (hpc : u.pc = s.pc) (hx : i.pageCross = false) :
    (u.advance i.operand.length).charge i.baseClocks = State.completed i s u := by
  simp [State.completed, State.advance, State.charge, Instr.extraClocks, hst, hpc, hx]

theorem readEffect_frame {m : Mnemonic} {e : Byte → State → State} (h : readEffect m = some e) (v : Byte) (s : State) :
    (e v s).apu = s.apu ∧ (e v s).pc = s.pc := by
  cases m <;> cases h <;> exact ⟨rfl, rfl⟩

theorem arithEffect_frame {m : Mnemonic} {e : Byte → State → State} (h : arithEffect m = some e) (v : Byte)
    (s : State) : (e v s).apu = s.apu ∧ (e v s).pc = s.pc := by
  cases m <;> cases h <;> exact ⟨rfl, rfl⟩

theorem impliedEffect_frame {m : Mnemonic} {e : State → State} (h : impliedEffect m = some e) (s : State) :
    (e s).apu = s.apu ∧ (e s).pc = s.pc := by
  cases m <;> cases h <;> exact ⟨rfl, rfl⟩

theorem exec_read_ok {i : Instr} {e : Byte → State → State} (h : readEffect i.mnemonic = some e) {s : State} {m : Byte}
    (hm : s.readOperand i.operand = .ok m) : exec i s = .next (State.completed i s (e m s)) := by
  obtain ⟨ha, hp⟩ := readEffect_frame h m s
  rw [exec_read h, State.readClass, hm]
  exact congrArg _ (finish_read i s _ (by rw [ha]) hp)

theorem exec_read_error {i : Instr} {e : Byte → State → State} (h : readEffect i.mnemonic = some e) {s : State}
    {f : CoreFault} (hf : s.readOperand i.operand = .error f) : exec i s = s.raise f := by
  rw [exec_read h, State.readClass, hf]

theorem exec_arith_ok {i : Instr} {e : Byte → State → State} (h : arithEffect i.mnemonic = some e) {s : State} {m : Byte}
    (hd : s.cfg.decimal = .fault → s.flags.d = false) (hm : s.readOperand i.operand = .ok m) :
    exec i s = .next (State.completed i s (e m s)) := by
  obtain ⟨ha, hp⟩ := arithEffect_frame h m s
  rw [exec_arith h]
  rcases arithClass_cases s i.operand i.baseClocks i.pageCross e with ⟨h1, h2, -⟩ | ⟨-, hr⟩
  · rw [hd h1] at h2; cases h2
  · rw [hr, State.readClass, hm]
    exact congrArg _ (finish_read i s _ (by rw [ha]) hp)

theorem exec_store_ok {i : Instr} {e : State → Byte} (h : storedRegister i.mnemonic = some e) {s t : State} {ea : Word}
    (hl : (s.resolve i.operand).loc = .mem ea) (hw : s.memWrite ea (e s) = .ok t) :
    exec i s = .next (State.completed i s t) := by
  have hf : t.pc = s.pc := by rw [memWrite_frame hw]
  rw [exec_store h, State.writeClass, hl]
  simp only [State.writeLoc, hw]
  exact congrArg _ (finish_plain i s t (memWrite_stall hw) hf (pageCross_store h))

theorem exec_store_error {i : Instr} {e : State → Byte} (h : storedRegister i.mnemonic = some e) {s : State} {ea : Word}
    {f : CoreFault} (hl : (s.resolve i.operand).loc = .mem ea) (hw : s.memWrite ea (e s) = .error f) :
    exec i s = s.raise f := by
  rw [exec_store h, State.writeClass, hl]
  simp only [State.writeLoc, hw]

theorem writeLoc_frame {s t : State} {l : Loc} {r : Byte} (h : s.writeLoc l r = .ok t) :
    t.pc = s.pc ∧ t.flags = s.flags ∧ t.apu.dmc.stallPending = s.apu.dmc.stallPending := by
  rcases writeLoc_cases h with h | ⟨-, h⟩ | ⟨ea, -, h⟩
  · subst h; exact ⟨rfl, rfl, rfl⟩
  · subst h; exact ⟨rfl, rfl, rfl⟩
  · exact ⟨by rw [memWrite_frame h], by rw [memWrite_frame h], memWrite_stall h⟩

/-- A write to a location commutes with a change of the flags. -/
theorem writeLoc_flags {s t : State} {l : Loc} {r : Byte} (h : s.writeLoc l r = .ok t) (f : Flags) :
    State.writeLoc l r { s with flags := f } = .ok { t with flags := f } := by
  unfold State.writeLoc at h ⊢
  cases l with
  | none => cases h; rfl
  | acc => cases h; rfl
  | imm v => cases h; rfl
  | mem ea =>
    have hw := memWrite_with h s.a s.x s.y s.sp s.pc f s.cost s.halted
    rw [memWrite_frame h] at hw ⊢
    exact hw

theorem exec_modify_ok {i : Instr} {e : (Bool → Byte → Byte) × (Bool → Byte → Bool)}
    (h : modifyEffect i.mnemonic = some e) {s t : State} {v : Byte} (hv : s.readOperand i.operand = .ok v)
    (hw : s.writeLoc (s.resolve i.operand).loc (e.1 s.flags.c v) = .ok t) :
    exec i s = .next (State.completed i s
      { t with flags := Flags.setNZ { s.flags with c := e.2 s.flags.c v } (e.1 s.flags.c v) }) := by
  have hw' := writeLoc_flags hw { s.flags with c := e.2 s.flags.c v }
  obtain ⟨hp, -, hst⟩ := writeLoc_frame hw
  rw [exec_modify h]
  rcases modifyClass_cases s i.operand i.baseClocks e.1 e.2 with ⟨f, hf, -⟩ | ⟨v', hv', hr⟩
  · rw [hv] at hf; cases hf
  · rw [hv] at hv'
    cases hv'
    rcases hr with ⟨u, hu, hr⟩ | ⟨f, hf, -⟩
    · rw [hw'] at hu
      cases hu
      rw [hr]
      exact congrArg _ (finish_plain i s _ hst hp (pageCross_modify h))
    · rw [hw'] at hf; cases hf

/-- A write to a location that faults does so whatever the flags are. -/
theorem writeLoc_error_flags {s : State} {l : Loc} {r : Byte} {f : CoreFault} (h : s.writeLoc l r = .error f)
    (g : Flags) : State.writeLoc l r { s with flags := g } = .error f := by
  unfold State.writeLoc at h ⊢
  cases l with
  | none => cases h
  | acc => cases h
  | imm v => cases h
  | mem ea => exact memWrite_error_flags h g

theorem exec_modify_error {i : Instr} {e : (Bool → Byte → Byte) × (Bool → Byte → Bool)}
    (h : modifyEffect i.mnemonic = some e) {s : State} {f : CoreFault} (hf : s.readOperand i.operand = .error f) :
    exec i s = s.stopsAt f := by
  rw [exec_modify h]
  rcases modifyClass_cases s i.operand i.baseClocks e.1 e.2 with ⟨g, hg, hr⟩ | ⟨v, hv, -⟩
  · rw [hf] at hg
    cases hg
    exact hr
  · rw [hf] at hv
    cases hv

/-- A read-modify-write instruction whose write faults stops with its carry set (log entry 7). -/
theorem exec_modify_write_error {i : Instr} {e : (Bool → Byte → Byte) × (Bool → Byte → Bool)}
    (h : modifyEffect i.mnemonic = some e) {s : State} {v : Byte} {f : CoreFault}
    (hv : s.readOperand i.operand = .ok v)
    (hw : s.writeLoc (s.resolve i.operand).loc (e.1 s.flags.c v) = .error f) :
    exec i s = State.stopsAt { s with flags := { s.flags with c := e.2 s.flags.c v } } f := by
  have hw' := writeLoc_error_flags hw { s.flags with c := e.2 s.flags.c v }
  rw [exec_modify h]
  rcases modifyClass_cases s i.operand i.baseClocks e.1 e.2 with ⟨g, hg, -⟩ | ⟨w, hg, hr⟩
  · rw [hv] at hg
    cases hg
  · rw [hv] at hg
    cases hg
    rcases hr with ⟨t, ht, -⟩ | ⟨g, ht, hr⟩
    · rw [hw'] at ht
      cases ht
    · rw [hw'] at ht
      cases ht
      exact hr

theorem exec_arith_error {i : Instr} {e : Byte → State → State} (h : arithEffect i.mnemonic = some e) {s : State}
    {f : CoreFault} (hd : s.cfg.decimal = .fault → s.flags.d = false) (hf : s.readOperand i.operand = .error f) :
    exec i s = s.stopsAt f := by
  rw [exec_arith h]
  rcases arithClass_cases s i.operand i.baseClocks i.pageCross e with ⟨h1, h2, -⟩ | ⟨-, hr⟩
  · rw [hd h1] at h2
    cases h2
  · rw [hr, State.readClass, hf]
    rfl

/-- ADC and SBC with D = 1 under P_DECIMAL = Fault (R171, R372). -/
theorem exec_arith_decimal {i : Instr} {e : Byte → State → State} (h : arithEffect i.mnemonic = some e) {s : State}
    (hc : s.cfg.decimal = .fault) (hd : s.flags.d = true) : exec i s = s.stopsAt (.decimalUnsupported s.pc) := by
  rw [exec_arith h]
  rcases arithClass_cases s i.operand i.baseClocks i.pageCross e with ⟨-, -, hr⟩ | ⟨h1, -⟩
  · exact hr
  · rw [h1 hc] at hd
    cases hd

theorem exec_implied_ok {i : Instr} {e : State → State} (h : impliedEffect i.mnemonic = some e) (s : State) :
    exec i s = .next (State.completed i s (e s)) := by
  obtain ⟨ha, hp⟩ := impliedEffect_frame h s
  obtain ⟨hx, ho⟩ := pageCross_implied h
  rw [exec_implied h, State.impliedClass, State.finish, ← ho]
  exact congrArg _ (finish_plain i s _ (by rw [ha]) hp hx)

theorem exec_read_next {i : Instr} {e : Byte → State → State} (h : readEffect i.mnemonic = some e) {s t : State}
    (ht : exec i s = .next t) : ∃ m, s.readOperand i.operand = .ok m ∧ t = State.completed i s (e m s) := by
  cases hr : s.readOperand i.operand with
  | ok m => rw [exec_read_ok h hr] at ht; exact ⟨m, rfl, (Host.Outcome.next.inj ht).symm⟩
  | error f => rw [exec_read_error h hr] at ht; cases ht

theorem exec_arith_next {i : Instr} {e : Byte → State → State} (h : arithEffect i.mnemonic = some e) {s t : State}
    (ht : exec i s = .next t) : ∃ m, (s.cfg.decimal = .fault → s.flags.d = false) ∧
      s.readOperand i.operand = .ok m ∧ t = State.completed i s (e m s) := by
  rcases arithClass_cases s i.operand i.baseClocks i.pageCross e with ⟨-, -, hd⟩ | ⟨hd, hc⟩
  · rw [exec_arith h, hd] at ht; cases ht
  · cases hr : s.readOperand i.operand with
    | ok m => rw [exec_arith_ok h hd hr] at ht; exact ⟨m, hd, rfl, (Host.Outcome.next.inj ht).symm⟩
    | error f => rw [exec_arith h, hc, State.readClass, hr] at ht; cases ht

theorem exec_store_next {i : Instr} {e : State → Byte} (h : storedRegister i.mnemonic = some e) {s t : State}
    (ht : exec i s = .next t) :
    ∃ u, s.writeLoc (s.resolve i.operand).loc (e s) = .ok u ∧ t = State.completed i s u := by
  rw [exec_store h] at ht
  rcases writeClass_cases s i.operand i.baseClocks (e s) with ⟨u, hu, hr⟩ | ⟨f, -, hr⟩ <;> rw [hr] at ht
  · obtain ⟨hp, -, hst⟩ := writeLoc_frame hu
    rw [finish_plain i s u hst hp (pageCross_store h)] at ht
    exact ⟨u, hu, (Host.Outcome.next.inj ht).symm⟩
  · cases ht

theorem exec_modify_next {i : Instr} {e : (Bool → Byte → Byte) × (Bool → Byte → Bool)}
    (h : modifyEffect i.mnemonic = some e) {s t : State} (ht : exec i s = .next t) :
    ∃ v u, s.readOperand i.operand = .ok v ∧
      State.writeLoc (s.resolve i.operand).loc (e.1 s.flags.c v)
        { s with flags := { s.flags with c := e.2 s.flags.c v } } = .ok u ∧
      t = State.completed i s { u with flags := u.flags.setNZ (e.1 s.flags.c v) } := by
  rw [exec_modify h] at ht
  rcases modifyClass_cases s i.operand i.baseClocks e.1 e.2 with ⟨f, -, hr⟩ | ⟨v, hv, hr⟩
  · rw [hr] at ht; cases ht
  · rcases hr with ⟨u, hu, hr⟩ | ⟨f, -, hr⟩ <;> rw [hr] at ht
    · obtain ⟨hp, -, hst⟩ := writeLoc_frame hu
      have hfin := finish_plain i s { u with flags := u.flags.setNZ (e.1 s.flags.c v) } hst hp (pageCross_modify h)
      rw [hfin] at ht
      exact ⟨v, u, hv, hu, (Host.Outcome.next.inj ht).symm⟩
    · cases ht

theorem exec_brk_next {s t : State} (ht : exec .brk s = .next t) :
    ∃ w, s.cfg.brk = .standard ∧ s.trapFrame.memRead2 0xFFFE = .ok w ∧
      t = { s.trapFrame with pc := w }.charge 7 := by
  have h : execBrk s = .next t := ht
  unfold execBrk at h
  split at h
  · cases h
  · rename_i hb
    rcases trap_cases s 7 with ⟨w, hw, hr⟩ | ⟨f, -, hr⟩ <;> rw [hr] at h
    · exact ⟨w, hb, hw, (Host.Outcome.next.inj h).symm⟩
    · cases h

theorem exec_ind_next {w : Word} {s t : State} (ht : exec (.jmpInd w) s = .next t) :
    ∃ u, s.indirectTarget w = .ok u ∧ t = { s with pc := u }.charge 5 := by
  have h : execJmpInd w s = .next t := ht
  rcases jmpInd_cases s w with ⟨u, hu, hr⟩ | ⟨f, -, hr⟩ <;> rw [hr] at h
  · exact ⟨u, hu, (Host.Outcome.next.inj h).symm⟩
  · cases h

theorem exec_direct (w : Word) (s : State) :
    exec (.jmpAbs w) s = .next ({ s with pc := w }.charge 3) ∧
    exec (.jsr w) s = .next ({ s.push16 (s.pc + 2) with pc := w }.charge 6) ∧
    exec .rts s = .next (s.subroutineReturn.charge 6) ∧ exec .rti s = s.returnFromTrap 6 :=
  ⟨rfl, rfl, rfl, rfl⟩

/-- Everything an instruction that completes can have done, class by class: a property of each class's outcome is a property
of every outcome. -/
theorem exec_next_holds {P : Instr → State → State → Prop}
    (hread : ∀ (i : Instr) (s : State) (e : Byte → State → State) (m : Byte), readEffect i.mnemonic = some e →
      s.readOperand i.operand = .ok m → P i s (State.completed i s (e m s)))
    (harith : ∀ (i : Instr) (s : State) (e : Byte → State → State) (m : Byte), arithEffect i.mnemonic = some e →
      (s.cfg.decimal = .fault → s.flags.d = false) → s.readOperand i.operand = .ok m →
      P i s (State.completed i s (e m s)))
    (hstore : ∀ (i : Instr) (s : State) (e : State → Byte) (u : State), storedRegister i.mnemonic = some e →
      s.writeLoc (s.resolve i.operand).loc (e s) = .ok u → P i s (State.completed i s u))
    (hmodify : ∀ (i : Instr) (s : State) (e : (Bool → Byte → Byte) × (Bool → Byte → Bool)) (v : Byte) (u : State),
      modifyEffect i.mnemonic = some e → s.readOperand i.operand = .ok v →
      State.writeLoc (s.resolve i.operand).loc (e.1 s.flags.c v)
        { s with flags := { s.flags with c := e.2 s.flags.c v } } = .ok u →
      P i s (State.completed i s { u with flags := u.flags.setNZ (e.1 s.flags.c v) }))
    (himplied : ∀ (i : Instr) (s : State) (e : State → State), impliedEffect i.mnemonic = some e →
      P i s (State.completed i s (e s)))
    (hbranch : ∀ (i : Instr) (s : State) (e : Flags → Bool) (r : Byte), branchTaken i.mnemonic = some e →
      i.operand = .rel r → ∀ (n : Nat) (w : Word), P i s (State.charge n { s with pc := w }))
    (hjmp : ∀ (w : Word) (s : State), P (.jmpAbs w) s (State.charge 3 { s with pc := w }))
    (hind : ∀ (w : Word) (s : State) (u : Word), s.indirectTarget w = .ok u →
      P (.jmpInd w) s (State.charge 5 { s with pc := u }))
    (hjsr : ∀ (w : Word) (s : State), P (.jsr w) s (State.charge 6 { s.push16 (s.pc + 2) with pc := w }))
    (hrts : ∀ s : State, P .rts s (s.subroutineReturn.charge 6))
    (hrti : ∀ s t : State, s.returnFromTrap 6 = .next t → P .rti s t)
    (hbrk : ∀ (s : State) (w : Word), s.cfg.brk = .standard → s.trapFrame.memRead2 0xFFFE = .ok w →
      P .brk s (State.charge 7 { s.trapFrame with pc := w }))
    {i : Instr} {s t : State} (h : exec i s = .next t) : P i s t := by
  rcases instr_classes i with ⟨e, he⟩ | ⟨e, he⟩ | ⟨e, he⟩ | ⟨e, he⟩ | ⟨e, he, -⟩ | ⟨e, he⟩ | ⟨w, rfl⟩ | ⟨w, rfl⟩ |
    ⟨w, rfl⟩ | rfl | rfl | rfl
  · obtain ⟨m, hm, rfl⟩ := exec_read_next he h
    exact hread _ _ _ _ he hm
  · obtain ⟨m, hd, hm, rfl⟩ := exec_arith_next he h
    exact harith _ _ _ _ he hd hm
  · obtain ⟨u, hu, rfl⟩ := exec_store_next he h
    exact hstore _ _ _ _ he hu
  · obtain ⟨v, u, hv, hu, rfl⟩ := exec_modify_next he h
    exact hmodify _ _ _ _ _ he hv hu
  · rw [exec_implied_ok he] at h
    exact Host.Outcome.next.inj h ▸ himplied _ _ _ he
  · obtain ⟨r, ho, hr⟩ := exec_branch he s
    rw [hr] at h
    exact Host.Outcome.next.inj h ▸ hbranch _ _ _ _ he ho _ _
  · exact Host.Outcome.next.inj ((exec_direct w s).1.symm.trans h) ▸ hjmp _ _
  · obtain ⟨u, hu, rfl⟩ := exec_ind_next h
    exact hind _ _ _ hu
  · exact Host.Outcome.next.inj ((exec_direct w s).2.1.symm.trans h) ▸ hjsr _ _
  · exact Host.Outcome.next.inj ((exec_direct 0 s).2.2.1.symm.trans h) ▸ hrts _
  · exact hrti _ _ ((exec_direct 0 s).2.2.2.symm.trans h)
  · obtain ⟨w, hb, hw, rfl⟩ := exec_brk_next h
    exact hbrk _ _ hb hw

end Sys2Proof.Machine
end

