-- ==== Sys2Proof/Laws/Frames.lean ====
section
/-! SUPPORT. What a write leaves alone, as a read of one byte sees it, in the terms of `aliases` and `mayChange`; and the
numbers that the window and page fields of an address are. -/

namespace Sys2Proof.Machine

theorem windowOf_toNat (a : Word) : (windowOf a).toNat = (a.toNat / 0x1000) % 8 := by
  simp [windowOf, Nat.shiftRight_eq_div_pow]

theorem pageOffset_toNat (a : Word) : (a.extractLsb' 0 12).toNat = a.toNat % 0x1000 := by
  simp

/-- A write changes no byte outside `mayChange` (R57, R63). -/
theorem memRead_memWrite_ne {s t : State} {ea : Word} {v : Byte} (h : s.memWrite ea v = .ok t) {a : Word}
    (hn : ¬ mayChange s ea a) : t.memRead a = s.memRead a := by
  rcases memWrite_cases h with ⟨hl, rfl⟩ | ⟨-, -, rfl⟩ | ⟨-, rfl⟩ | ⟨hl, hb, rfl⟩ | ⟨-, -, rfl⟩
  · exact memRead_ramWrite_ne s v (fun hx => hn (.inl ⟨hl, hx⟩))
  · exact memRead_congr rfl rfl rfl rfl a
  · exact memRead_congr rfl rfl rfl rfl a
  · by_cases ha : a < 0x8000
    · rw [memRead_low ha, memRead_low ha]
      rfl
    · refine memRead_high_congr ha ?_ rfl rfl
      have hne : ea.toNat - s.cfg.bankBase ≠ (windowOf a).toNat := fun he =>
        hn (.inr ⟨hl, hb, by bv_omega, he.symm⟩)
      simp only [State.pageOf, State.bankWrite, Vector.getElem_setIfInBounds, if_neg hne]
  · rfl

/-- A push changes no byte but the stack byte it writes and its mirrors (R27). -/
theorem memRead_push_ne {s : State} {a : Word} (v : Byte) (h : ¬ aliases s (stackAddr s.sp) a) :
    (s.push v).memRead a = s.memRead a :=
  (memRead_congr (s := s.ramWrite (stackAddr s.sp) v) rfl rfl rfl rfl a).trans (memRead_ramWrite_ne s v h)

/-- The byte a push writes is the one the next pull takes, in a RAM in canonical form (R27). -/
theorem memRead_push {s : State} (hwf : s.ram.wf) (v : Byte) : (s.push v).memRead (stackAddr s.sp) = .ok v := by
  refine (memRead_congr (s := s.ramWrite (stackAddr s.sp) v) rfl rfl rfl rfl _).trans ?_
  rw [memRead_ramWrite hwf.1, if_pos ⟨stackAddr_low _, rfl⟩]

/-- The frame that BRK pushes changes no byte at or above 0x8000 (R225). -/
theorem memRead_trapFrame {s : State} (a : Word) (h : ¬ a < 0x8000) : s.trapFrame.memRead a = s.memRead a :=
  memRead_high_congr (s := s) (t := s.trapFrame) h rfl rfl rfl

/-- `P | 0x30`, bit by bit (R24, R151). -/
theorem Flags.pushed_bits (f : Flags) :
    f.pushed = BitVec.ofBool f.n ++ BitVec.ofBool f.v ++ (0b11#2) ++ BitVec.ofBool f.d ++ BitVec.ofBool f.i ++
      BitVec.ofBool f.z ++ BitVec.ofBool f.c := by
  obtain ⟨n, v, b, d, i, z, c⟩ := f
  revert n v b d i z c
  decide

end Sys2Proof.Machine
end

