-- ==== Sys2Proof/Laws/HostOps.lean ====
section
/-! SUPPORT. The rates that NextSample takes (R340, R381). -/

namespace Sys2Proof.Machine

/-- A rate is taken exactly if it is a positive integer. -/
theorem isSampleRate_iff {rate : Rat} : isSampleRate rate = true ↔ ∃ k : Nat, 0 < k ∧ rate = k := by
  simp only [isSampleRate, Bool.and_eq_true, decide_eq_true_eq]
  constructor
  · rintro ⟨hpos, hint⟩
    have hnum : rate = rate.num := Rat.ext rfl (by simpa [Rat.isInt] using hint)
    have hk : (rate.num.toNat : Int) = rate.num := Int.toNat_of_nonneg (Rat.num_pos.2 hpos).le
    exact ⟨rate.num.toNat, by have := Rat.num_pos.2 hpos; omega, by rw [← Int.cast_natCast, hk]; exact hnum⟩
  · rintro ⟨k, hk, rfl⟩
    exact ⟨Nat.cast_pos.2 hk, by simp [Rat.isInt]⟩

/-- Every positive natural number is a rate. -/
@[simp] theorem isSampleRate_natCast {k : Nat} (h : 0 < k) : isSampleRate k = true :=
  isSampleRate_iff.2 ⟨k, h, rfl⟩

end Sys2Proof.Machine
end

