-- ==== Sys2Proof/Laws/Load.lean ====
section
/-! SUPPORT. The bytes that Load and the placing of a program make are in canonical form, and read as the data they are
made from (R73). -/

namespace Sys2Proof.Machine

/-- Every cell of the data lies within it. -/
theorem dataCells_within {k : Nat} {bs : List Byte} {p : Host.Cell} (h : p ∈ dataCells k bs) :
    k ≤ p.1 ∧ p.1 < k + bs.length ∧ p.2 ≠ 0 := by
  induction bs generalizing k with
  | nil => cases h
  | cons b bs ih =>
    have htail : p ∈ dataCells (k + 1) bs → k ≤ p.1 ∧ p.1 < k + (b :: bs).length ∧ p.2 ≠ 0 := by
      intro hp
      obtain ⟨h1, h2, h3⟩ := ih hp
      exact ⟨by omega, by simp only [List.length_cons]; omega, h3⟩
    by_cases hb : b = Memory.unlisted
    · rw [dataCells, if_pos hb] at h
      exact htail h
    · rw [dataCells, if_neg hb] at h
      rcases List.mem_cons.1 h with rfl | h
      · exact ⟨le_rfl, by simp only [List.length_cons]; omega, hb⟩
      · exact htail h

theorem dataCells_wf (k : Nat) (bs : List Byte) : (dataCells k bs).wf := by
  refine ⟨?_, fun p hp => (dataCells_within hp).2.2⟩
  induction bs generalizing k with
  | nil => exact List.Pairwise.nil
  | cons b bs ih =>
    by_cases hb : b = Memory.unlisted
    · rw [dataCells, if_pos hb]
      exact ih (k + 1)
    · rw [dataCells, if_neg hb]
      exact List.pairwise_cons.2 ⟨fun p hp => (dataCells_within hp).1, ih (k + 1)⟩

/-- The data reads back, and every other index reads as 0 (R73). -/
theorem dataCells_read (k : Nat) (bs : List Byte) (j : Nat) :
    (dataCells k bs).read j = if k ≤ j then bs.getD (j - k) 0 else 0 := by
  induction bs generalizing k with
  | nil => simp [dataCells, Memory.read, Memory.unlisted]
  | cons b bs ih =>
    have htail : j ≠ k → (dataCells (k + 1) bs).read j = if k ≤ j then (b :: bs).getD (j - k) 0 else 0 := by
      intro hj
      rw [ih]
      by_cases hk : k ≤ j
      · obtain ⟨d, rfl⟩ : ∃ d, j = k + 1 + d := ⟨j - (k + 1), by omega⟩
        have h1 : k + 1 + d - k = d + 1 := by omega
        have h2 : k + 1 + d - (k + 1) = d := by omega
        rw [if_pos (by omega), if_pos hk, h1, h2, List.getD_cons_succ]
      · rw [if_neg (by omega), if_neg hk]
    have hfirst : (dataCells (k + 1) bs).read k = 0 := Memory.read_below fun p hp => (dataCells_within hp).1
    by_cases hb : b = Memory.unlisted
    · rw [dataCells, if_pos hb]
      by_cases hj : j = k
      · subst hj
        rw [hfirst, if_pos le_rfl, Nat.sub_self, List.getD_cons_zero]
        exact hb.symm
      · exact htail hj
    · rw [dataCells, if_neg hb, Memory.read]
      by_cases hj : j = k
      · subst hj
        rw [if_pos rfl, if_pos le_rfl, Nat.sub_self, List.getD_cons_zero]
      · rw [if_neg hj]
        exact htail hj

/-- The pages that hold `n` bytes hold them, and the last of them holds one (R73). -/
theorem pagesFor_spec (n : Nat) :
    n ≤ pageSize * pagesFor n ∧ 1 ≤ pagesFor n ∧ (1 < pagesFor n → pageSize * (pagesFor n - 1) < n) := by
  unfold pagesFor pageSize
  omega

/-- Placing a byte keeps the canonical form of RAM and of the image. -/
theorem place_canonical {s : State} (hc : s.cfg.Facts) (hr : RamCanonical s) (hi : ImageCanonical s) (a : Word)
    (v : Byte) : RamCanonical (s.place a v) ∧ ImageCanonical (s.place a v) := by
  unfold State.place
  by_cases ha : a < 0x8000
  · rw [if_pos ha]
    refine ⟨⟨Memory.write_wf _ _ hr.1, Memory.write_lt _ _ hr.2 (Nat.mod_lt _ ?_)⟩, hi⟩
    have := hc.ramSize
    omega
  · rw [if_neg ha]
    refine ⟨hr, ?_⟩
    have him : (s.image.getD Image.blank).rom.wf ∧
        ∀ p ∈ (s.image.getD Image.blank).rom, p.1 < pageSize * (s.image.getD Image.blank).pageCount := by
      cases h : s.image with
      | none => exact ⟨⟨List.Pairwise.nil, fun p hp => absurd hp (by simp [Image.blank])⟩,
          fun p hp => absurd hp (by simp [Image.blank])⟩
      | some im => exact hi im (by simp [h])
    intro im hm
    have heq := Option.mem_some.1 hm
    subst heq
    have hoff : (a.extractLsb' 0 12).toNat < pageSize := (a.extractLsb' 0 12).isLt
    refine ⟨Memory.write_wf _ _ him.1, Memory.write_lt _ _ (fun p hp => ?_) ?_⟩
    · exact lt_of_lt_of_le (him.2 p hp) (Nat.mul_le_mul_left _ (le_max_left _ _))
    · refine lt_of_lt_of_le ?_ (Nat.mul_le_mul_left _ (le_max_right _ _))
      rw [Nat.mul_add]
      omega

end Sys2Proof.Machine
end

