-- ==== Sys2Proof/Laws/Step.lean ====
section
/-! SUPPORT. What every instruction, the play driver, the APU tick and a step keep: the launch (configuration, image, song,
play flag, debt), the fault flag, and the canonical and in-range parts of the invariant. -/

namespace Sys2Proof.Machine

/-- What no operation of a step changes, and what each keeps of the invariant. -/
structure Keeps (s t : State) : Prop where
  cfg : t.cfg = s.cfg
  image : t.image = s.image
  debt : t.debt = s.debt
  playing : t.playing = s.playing
  currentSong : t.currentSong = s.currentSong
  started : t.started = s.started
  fault : t.fault = s.fault
  ram : s.cfg.Facts → RamCanonical s → RamCanonical t
  apu : s.cfg.Facts → ApuInRange s.cfg s.apu → ApuInRange s.cfg t.apu

theorem Keeps.rfl' (s : State) : Keeps s s :=
  ⟨rfl, rfl, rfl, rfl, rfl, rfl, rfl, fun _ h => h, fun _ h => h⟩

theorem Keeps.trans {s t u : State} (h : Keeps s t) (k : Keeps t u) : Keeps s u where
  cfg := k.cfg.trans h.cfg
  image := k.image.trans h.image
  debt := k.debt.trans h.debt
  playing := k.playing.trans h.playing
  currentSong := k.currentSong.trans h.currentSong
  started := k.started.trans h.started
  fault := k.fault.trans h.fault
  ram := fun hc hr => k.ram (h.cfg ▸ hc) (h.ram hc hr)
  apu := fun hc ha => by
    have hk := k.apu (h.cfg ▸ hc)
    rw [h.cfg] at hk
    exact hk (h.apu hc ha)

/-- A change of registers, flags, PC, cost, halted flag, page selection, play clock and pending stall keeps all of it. -/
theorem Keeps.of_same {s t : State} (h1 : t.cfg = s.cfg) (h2 : t.image = s.image) (h3 : t.debt = s.debt)
    (h4 : t.playing = s.playing) (h5 : t.currentSong = s.currentSong) (h6 : t.started = s.started)
    (h7 : t.fault = s.fault) (h8 : t.ram = s.ram) (h9 : sameButStall s.apu t.apu) : Keeps s t :=
  ⟨h1, h2, h3, h4, h5, h6, h7, fun _ h => by unfold RamCanonical; rw [h8, h1]; exact h, fun _ h => by
    unfold sameButStall at h9
    rw [h9]
    exact h⟩

theorem keeps_ramWrite (s : State) (a : Word) (v : Byte) : Keeps s (s.ramWrite a v) where
  cfg := rfl
  image := rfl
  debt := rfl
  playing := rfl
  currentSong := rfl
  started := rfl
  fault := rfl
  ram := fun hc h => by
    refine ⟨Memory.write_wf _ _ h.1, Memory.write_lt _ _ h.2 (Nat.mod_lt _ ?_)⟩
    have := hc.ramSize
    omega
  apu := fun _ h => h

theorem keeps_apu {s : State} {q : Apu} (h : s.cfg.Facts → ApuInRange s.cfg s.apu → ApuInRange s.cfg q) :
    Keeps s { s with apu := q } :=
  ⟨rfl, rfl, rfl, rfl, rfl, rfl, rfl, fun _ h => h, h⟩

theorem keeps_memWrite {s t : State} {a : Word} {v : Byte} (h : s.memWrite a v = .ok t) : Keeps s t := by
  rcases memWrite_cases h with ⟨-, rfl⟩ | ⟨-, -, rfl⟩ | ⟨-, rfl⟩ | ⟨-, -, rfl⟩ | ⟨-, -, rfl⟩
  · exact keeps_ramWrite ..
  · exact keeps_apu (fun hc h => apuWrite_inRange hc a v h)
  · exact keeps_apu (fun _ h => frameModeWrite_inRange v h)
  · exact Keeps.of_same rfl rfl rfl rfl rfl rfl rfl rfl rfl
  · exact Keeps.rfl' _

theorem keeps_writeLoc {s t : State} {l : Loc} {r : Byte} (h : s.writeLoc l r = .ok t) : Keeps s t := by
  rcases writeLoc_cases h with h | ⟨-, h⟩ | ⟨ea, -, h⟩
  · subst h; exact Keeps.rfl' _
  · subst h; exact Keeps.of_same rfl rfl rfl rfl rfl rfl rfl rfl rfl
  · exact keeps_memWrite h

theorem keeps_push (s : State) (v : Byte) : Keeps s (s.push v) :=
  (keeps_ramWrite s (stackAddr s.sp) v).trans (Keeps.of_same rfl rfl rfl rfl rfl rfl rfl rfl rfl)

theorem keeps_push16 (s : State) (w : Word) : Keeps s (s.push16 w) :=
  (keeps_push s _).trans (keeps_push _ _)

theorem keeps_charge (s : State) (n : Nat) : Keeps s (s.charge n) :=
  Keeps.of_same rfl rfl rfl rfl rfl rfl rfl rfl rfl

theorem keeps_finish {s t u : State} (h : Keeps s t) (len n : Nat) (hu : u = (t.advance len).charge n) : Keeps s u :=
  hu ▸ h.trans (Keeps.of_same rfl rfl rfl rfl rfl rfl rfl rfl rfl)

theorem keeps_readEffect {m : Mnemonic} {e : Byte → State → State} (h : readEffect m = some e) (v : Byte) (s : State) :
    Keeps s (e v s) := by
  cases m <;> cases h <;> exact Keeps.of_same rfl rfl rfl rfl rfl rfl rfl rfl rfl

theorem keeps_arithEffect {m : Mnemonic} {e : Byte → State → State} (h : arithEffect m = some e) (v : Byte)
    (s : State) : Keeps s (e v s) := by
  cases m <;> cases h <;> exact Keeps.of_same rfl rfl rfl rfl rfl rfl rfl rfl rfl

theorem keeps_impliedEffect {m : Mnemonic} {e : State → State} (h : impliedEffect m = some e) (s : State) :
    Keeps s (e s) := by
  cases m <;> cases h <;> first
    | exact Keeps.of_same rfl rfl rfl rfl rfl rfl rfl rfl rfl
    | exact keeps_push ..

theorem keeps_readClass {s t : State} {o : Operand} {base : Nat} {flag : Bool} {e : Byte → State → State}
    (he : ∀ v, Keeps s (e v s)) (h : s.readClass o base flag e = .next t) : Keeps s t := by
  rcases readClass_cases s o base flag e with ⟨m, -, hr⟩ | ⟨f, -, hr⟩ <;> rw [hr] at h <;> cases h
  exact keeps_finish (he m) _ _ rfl

theorem keeps_modifyClass {s t : State} {o : Operand} {base : Nat} {result : Bool → Byte → Byte}
    {carry : Bool → Byte → Bool} (h : s.modifyClass o base result carry = .next t) : Keeps s t := by
  rcases modifyClass_cases s o base result carry with ⟨f, -, hr⟩ | ⟨v, -, hr⟩
  · rw [hr] at h; cases h
  · rcases hr with ⟨u, hu, hr⟩ | ⟨f, -, hr⟩ <;> rw [hr] at h <;> cases h
    have h1 : Keeps s { s with flags := { s.flags with c := carry s.flags.c v } } :=
      Keeps.of_same rfl rfl rfl rfl rfl rfl rfl rfl rfl
    have h2 : Keeps u { u with flags := u.flags.setNZ (result s.flags.c v) } :=
      Keeps.of_same rfl rfl rfl rfl rfl rfl rfl rfl rfl
    exact keeps_finish ((h1.trans (keeps_writeLoc hu)).trans h2) _ _ rfl

theorem keeps_pc {s t : State} (h : Keeps s t) (w : Word) (n : Nat) : Keeps s ({ t with pc := w }.charge n) :=
  h.trans (Keeps.of_same rfl rfl rfl rfl rfl rfl rfl rfl rfl)

theorem keeps_trap {s t : State} {n : Nat} (h : s.trap n = .next t) : Keeps s t := by
  have hframe : Keeps s s.trapFrame := by
    refine ((keeps_push16 s (s.pc + 2)).trans (keeps_push _ s.flags.pushed)).trans ?_
    unfold State.trapFrame
    generalize (s.push16 (s.pc + 2)).push s.flags.pushed = u
    exact Keeps.of_same rfl rfl rfl rfl rfl rfl rfl rfl rfl
  rcases trap_cases s n with ⟨w, -, hr⟩ | ⟨f, -, hr⟩ <;> rw [hr] at h <;> cases h
  exact keeps_pc hframe _ _

theorem keeps_return (s : State) (n : Nat) : Keeps s (s.subroutineReturn.charge n) :=
  Keeps.of_same rfl rfl rfl rfl rfl rfl rfl rfl rfl

theorem keeps_returnFromTrap {s t : State} {n : Nat} (h : s.returnFromTrap n = .next t) : Keeps s t := by
  cases h
  exact Keeps.of_same rfl rfl rfl rfl rfl rfl rfl rfl rfl

/-- Every instruction that completes keeps the launch, the fault flag and the invariant's parts. -/
theorem exec_keeps {i : Instr} {s t : State} (h : exec i s = .next t) : Keeps s t := by
  rcases instr_classes i with ⟨e, he⟩ | ⟨e, he⟩ | ⟨e, he⟩ | ⟨e, he⟩ | ⟨e, he, -⟩ | ⟨e, he⟩ | ⟨w, rfl⟩ | ⟨w, rfl⟩ |
    ⟨w, rfl⟩ | rfl | rfl | rfl
  · rw [exec_read he] at h
    exact keeps_readClass (fun v => keeps_readEffect he v s) h
  · rw [exec_arith he] at h
    rcases arithClass_cases s i.operand i.baseClocks i.pageCross e with ⟨-, -, hr⟩ | ⟨-, hr⟩ <;> rw [hr] at h
    · cases h
    · exact keeps_readClass (fun v => keeps_arithEffect he v s) h
  · rw [exec_store he] at h
    rcases writeClass_cases s i.operand i.baseClocks (e s) with ⟨u, hu, hr⟩ | ⟨f, -, hr⟩ <;> rw [hr] at h <;> cases h
    exact keeps_finish (keeps_writeLoc hu) _ _ rfl
  · rw [exec_modify he] at h
    exact keeps_modifyClass h
  · rw [exec_implied he] at h
    cases h
    exact keeps_finish (keeps_impliedEffect he s) _ _ rfl
  · obtain ⟨r, -, hr⟩ := exec_branch he s
    rw [hr] at h
    cases h
    exact keeps_pc (Keeps.rfl' s) _ _
  · cases h
    exact keeps_pc (Keeps.rfl' s) _ _
  · have h' : execJmpInd w s = .next t := h
    rcases jmpInd_cases s w with ⟨u, -, hr⟩ | ⟨f, -, hr⟩ <;> rw [hr] at h' <;> cases h'
    exact keeps_pc (Keeps.rfl' s) _ _
  · have h' : execJsr w s = .next t := h
    cases h'
    exact keeps_pc (keeps_push16 s _) _ _
  · have h' : execRts s = .next t := h
    cases h'
    exact keeps_return s 6
  · exact keeps_returnFromTrap (n := 6) h
  · have h' : execBrk s = .next t := h
    unfold execBrk at h'
    split at h'
    · cases h'
    · exact keeps_trap h'

/-! ### The rest of a step -/

theorem executeOne_keeps {s t : State} (h : s.executeOne = .next t) : Keeps s t := by
  unfold State.executeOne at h
  split at h
  · cases h; exact keeps_charge ..
  · split at h
    · cases h
    · exact exec_keeps h

theorem playDriver_keeps (s : State) : Keeps s s.playDriver := by
  unfold State.playDriver
  simp only
  split
  · refine (Keeps.of_same rfl rfl rfl rfl rfl rfl rfl rfl rfl :
      Keeps s { s with frameClock := s.frameClock + s.cost - s.cfg.playPeriod }).trans ?_
    split
    · exact (keeps_push16 _ _).trans (Keeps.of_same rfl rfl rfl rfl rfl rfl rfl rfl rfl)
    · exact Keeps.rfl' _
  · exact Keeps.of_same rfl rfl rfl rfl rfl rfl rfl rfl rfl

theorem clockChannels_keeps {s t : State} (h : s.clockChannels = .next t) : Keeps s t := by
  have hw : Keeps s { s with apu := s.apu.clockWaves s.cfg } := keeps_apu (fun hc h => Apu.clockWaves_inRange hc h)
  refine hw.trans ?_
  unfold State.clockChannels at h
  rcases dmcClock_cases { s with apu := s.apu.clockWaves s.cfg } with ⟨d, hd, hk⟩ | ⟨d, f, -, hd⟩
  · rw [hd] at h
    cases h
    exact keeps_apu (fun hc h => withDmc_inRange h (hk hc h.2.2.2.2.1))
  · rw [hd] at h; cases h

theorem clockTimes_keeps {n : Nat} {s t : State} (h : clockTimes n s = .next t) : Keeps s t := by
  induction n generalizing s with
  | zero => cases h; exact Keeps.rfl' _
  | succ n ih =>
    unfold clockTimes at h
    cases hc : s.clockChannels with
    | next u => rw [hc] at h; exact (clockChannels_keeps hc).trans (ih h)
    | fault f => rw [hc] at h; cases h
    | refused r => rw [hc] at h; cases h

theorem apuTick_keeps {n : Nat} {s t : State} (h : s.apuTick n = .next t) : Keeps s t :=
  (keeps_apu (fun hc h => Apu.advanceFrame_inRange hc n h) :
    Keeps s { s with apu := s.apu.advanceFrame s.cfg n }).trans (clockTimes_keeps h)

/-- The parts of a step that answers a next state (R342). -/
theorem step_next {s t : State} (h : step s = .next t) :
    s.started = true ∧ s.fault = none ∧ ∃ u, s.executeOne = .next u ∧ u.playDriver.apuTick u.cost = .next t := by
  unfold step at h
  split at h
  · rename_i hs
    split at h
    · cases h
    · rename_i hf
      refine ⟨hs, hf, ?_⟩
      unfold State.runStep at h
      cases hu : s.executeOne with
      | next u => rw [hu] at h; exact ⟨u, rfl, h⟩
      | fault f => rw [hu] at h; cases h
      | refused r => rw [hu] at h; cases h
  · cases h

theorem step_keeps {s t : State} (h : step s = .next t) : Keeps s t := by
  obtain ⟨-, -, u, hu, ht⟩ := step_next h
  exact ((executeOne_keeps hu).trans (playDriver_keeps u)).trans (apuTick_keeps ht)

end Sys2Proof.Machine
end

