-- ==== Sys2Proof/Laws/Outcome.lean ====
section
/-! SUPPORT. A step of a started core answers a next state or a core fault, and a core fault leaves its fault flag set
(R374): no instruction and no clock of this model ends in a refusal. -/

namespace Sys2Proof.Machine

/-- A next state, or a core fault whose stopped state holds it in its fault flag. -/
def NextOrFault (r : Result) : Prop :=
  (∃ t, r = .next t) ∨ ∃ f t, r = .fault (.core f t) ∧ t.fault = some f

theorem nextOrFault_raise (f : CoreFault) (s : State) : NextOrFault (s.raise f) := .inr ⟨f, _, rfl, rfl⟩

theorem nextOrFault_readClass (s : State) (o : Operand) (b : Nat) (f : Bool) (e : Byte → State → State) :
    NextOrFault (s.readClass o b f e) := by
  rcases readClass_cases s o b f e with ⟨m, -, h⟩ | ⟨g, -, h⟩ <;> rw [h]
  · exact .inl ⟨_, rfl⟩
  · exact nextOrFault_raise _ _

theorem nextOrFault_exec (i : Instr) (s : State) : NextOrFault (exec i s) := by
  rcases instr_classes i with ⟨e, he⟩ | ⟨e, he⟩ | ⟨e, he⟩ | ⟨e, he⟩ | ⟨e, he, -⟩ | ⟨e, he⟩ | ⟨w, rfl⟩ | ⟨w, rfl⟩ |
    ⟨w, rfl⟩ | rfl | rfl | rfl
  · rw [exec_read he]; exact nextOrFault_readClass _ _ _ _ _
  · rw [exec_arith he]
    rcases arithClass_cases s i.operand i.baseClocks i.pageCross e with ⟨-, -, h⟩ | ⟨-, h⟩ <;> rw [h]
    · exact nextOrFault_raise _ _
    · exact nextOrFault_readClass _ _ _ _ _
  · rw [exec_store he]
    rcases writeClass_cases s i.operand i.baseClocks (e s) with ⟨m, -, h⟩ | ⟨g, -, h⟩ <;> rw [h]
    · exact .inl ⟨_, rfl⟩
    · exact nextOrFault_raise _ _
  · rw [exec_modify he]
    rcases modifyClass_cases s i.operand i.baseClocks e.1 e.2 with ⟨g, -, h⟩ | ⟨v, -, ⟨t, -, h⟩ | ⟨f, -, h⟩⟩ <;>
      rw [h]
    · exact nextOrFault_raise _ _
    · exact .inl ⟨_, rfl⟩
    · exact nextOrFault_raise _ _
  · rw [exec_implied_ok he]; exact .inl ⟨_, rfl⟩
  · obtain ⟨r, -, h⟩ := exec_branch he s
    rw [h]; exact .inl ⟨_, rfl⟩
  · exact .inl ⟨_, rfl⟩
  · rcases jmpInd_cases s w with ⟨t, -, h⟩ | ⟨f, -, h⟩
    · exact .inl ⟨_, h⟩
    · show NextOrFault (execJmpInd w s); rw [h]; exact nextOrFault_raise _ _
  · exact .inl ⟨_, rfl⟩
  · exact .inl ⟨_, rfl⟩
  · exact .inl ⟨_, rfl⟩
  · show NextOrFault (execBrk s)
    unfold execBrk
    split
    · exact nextOrFault_raise _ _
    · rcases trap_cases s 7 with ⟨t, -, h⟩ | ⟨f, -, h⟩
      · exact .inl ⟨_, h⟩
      · rw [h]; exact nextOrFault_raise _ _

theorem nextOrFault_dmcClock (s : State) : NextOrFault s.dmcClock := by
  unfold State.dmcClock
  simp only
  split
  · exact .inl ⟨_, rfl⟩
  · split
    · split
      · exact nextOrFault_raise _ _
      · exact .inl ⟨_, rfl⟩
    · exact .inl ⟨_, rfl⟩

theorem nextOrFault_clockTimes : ∀ (k : Nat) (s : State), NextOrFault (clockTimes k s) := by
  intro k
  induction k with
  | zero => intro s; exact .inl ⟨_, rfl⟩
  | succ k ih =>
    intro s
    unfold clockTimes
    rcases nextOrFault_dmcClock { s with apu := s.apu.clockWaves s.cfg } with ⟨t, h⟩ | ⟨f, t, h, hf⟩
    · have h' : s.clockChannels = .next t := h
      rw [h']; exact ih t
    · have h' : s.clockChannels = _ := h
      rw [h']; exact .inr ⟨f, t, rfl, hf⟩

theorem nextOrFault_runStep (s : State) : NextOrFault s.runStep := by
  have : NextOrFault s.executeOne := by
    unfold State.executeOne
    split
    · exact .inl ⟨_, rfl⟩
    · split
      · exact nextOrFault_raise _ _
      · exact nextOrFault_exec _ _
  unfold State.runStep
  rcases this with ⟨t, h⟩ | ⟨f, t, h, hf⟩ <;> rw [h]
  · exact nextOrFault_clockTimes _ _
  · exact .inr ⟨f, t, rfl, hf⟩

theorem nextOrFault_step (s : State) (h : s.started = true) : NextOrFault (step s) := by
  unfold step
  rw [if_pos h]
  split
  · rename_i f hf; exact .inr ⟨f, s, rfl, hf⟩
  · exact nextOrFault_runStep s

end Sys2Proof.Machine
end

