-- ==== Sys2Proof/Laws/PerInstr.lean ====
section
/-! SUPPORT. The statements made instruction by instruction. Family `OpcodeRow`: the table holds exactly one row for the
opcode of an instruction, with its mnemonic and its mode, whose format makes the instruction from its own operand
bytes (R90, R91, R92, R95). -/

namespace Sys2Proof.Laws.OpcodeRow

/-- The row of an instruction's opcode is the instruction's own. -/
def Statement (i : Instr) : Prop :=
  ∃ r, findRow i.opcode = some r ∧ r.mnemonic = i.mnemonic ∧ r.mode = i.operand.mode ∧
    r.form.make i.operand.bytes = some i

theorem word_operand (mk : Word → Instr) (w : Word) : (Form.f3 mk).make [lowByte w, highByte w] = some (mk w) := by
  simp [Form.make, wordOf_bytes]

theorem ldaImm (b : Byte) : Statement (.ldaImm b) :=
  ⟨_, findRow_of_index (k := 97) rfl, rfl, rfl, rfl⟩

theorem ldaZp (b : Byte) : Statement (.ldaZp b) :=
  ⟨_, findRow_of_index (k := 94) rfl, rfl, rfl, rfl⟩

theorem ldaZpx (b : Byte) : Statement (.ldaZpx b) :=
  ⟨_, findRow_of_index (k := 105) rfl, rfl, rfl, rfl⟩

theorem ldaAbs (w : Word) : Statement (.ldaAbs w) :=
  ⟨_, findRow_of_index (k := 100) rfl, rfl, rfl, word_operand _ w⟩

theorem ldaAbsx (w : Word) : Statement (.ldaAbsx w) :=
  ⟨_, findRow_of_index (k := 111) rfl, rfl, rfl, word_operand _ w⟩

theorem ldaAbsy (w : Word) : Statement (.ldaAbsy w) :=
  ⟨_, findRow_of_index (k := 108) rfl, rfl, rfl, word_operand _ w⟩

theorem ldaIndx (b : Byte) : Statement (.ldaIndx b) :=
  ⟨_, findRow_of_index (k := 91) rfl, rfl, rfl, rfl⟩

theorem ldaIndy (b : Byte) : Statement (.ldaIndy b) :=
  ⟨_, findRow_of_index (k := 103) rfl, rfl, rfl, rfl⟩

theorem ldxImm (b : Byte) : Statement (.ldxImm b) :=
  ⟨_, findRow_of_index (k := 92) rfl, rfl, rfl, rfl⟩

theorem ldxZp (b : Byte) : Statement (.ldxZp b) :=
  ⟨_, findRow_of_index (k := 95) rfl, rfl, rfl, rfl⟩

theorem ldxZpy (b : Byte) : Statement (.ldxZpy b) :=
  ⟨_, findRow_of_index (k := 106) rfl, rfl, rfl, rfl⟩

theorem ldxAbs (w : Word) : Statement (.ldxAbs w) :=
  ⟨_, findRow_of_index (k := 101) rfl, rfl, rfl, word_operand _ w⟩

theorem ldxAbsy (w : Word) : Statement (.ldxAbsy w) :=
  ⟨_, findRow_of_index (k := 112) rfl, rfl, rfl, word_operand _ w⟩

theorem ldyImm (b : Byte) : Statement (.ldyImm b) :=
  ⟨_, findRow_of_index (k := 90) rfl, rfl, rfl, rfl⟩

theorem ldyZp (b : Byte) : Statement (.ldyZp b) :=
  ⟨_, findRow_of_index (k := 93) rfl, rfl, rfl, rfl⟩

theorem ldyZpx (b : Byte) : Statement (.ldyZpx b) :=
  ⟨_, findRow_of_index (k := 104) rfl, rfl, rfl, rfl⟩

theorem ldyAbs (w : Word) : Statement (.ldyAbs w) :=
  ⟨_, findRow_of_index (k := 99) rfl, rfl, rfl, word_operand _ w⟩

theorem ldyAbsx (w : Word) : Statement (.ldyAbsx w) :=
  ⟨_, findRow_of_index (k := 110) rfl, rfl, rfl, word_operand _ w⟩

theorem staZp (b : Byte) : Statement (.staZp b) :=
  ⟨_, findRow_of_index (k := 74) rfl, rfl, rfl, rfl⟩

theorem staZpx (b : Byte) : Statement (.staZpx b) :=
  ⟨_, findRow_of_index (k := 84) rfl, rfl, rfl, rfl⟩

theorem staAbs (w : Word) : Statement (.staAbs w) :=
  ⟨_, findRow_of_index (k := 79) rfl, rfl, rfl, word_operand _ w⟩

theorem staAbsx (w : Word) : Statement (.staAbsx w) :=
  ⟨_, findRow_of_index (k := 89) rfl, rfl, rfl, word_operand _ w⟩

theorem staAbsy (w : Word) : Statement (.staAbsy w) :=
  ⟨_, findRow_of_index (k := 87) rfl, rfl, rfl, word_operand _ w⟩

theorem staIndx (b : Byte) : Statement (.staIndx b) :=
  ⟨_, findRow_of_index (k := 72) rfl, rfl, rfl, rfl⟩

theorem staIndy (b : Byte) : Statement (.staIndy b) :=
  ⟨_, findRow_of_index (k := 82) rfl, rfl, rfl, rfl⟩

theorem stxZp (b : Byte) : Statement (.stxZp b) :=
  ⟨_, findRow_of_index (k := 75) rfl, rfl, rfl, rfl⟩

theorem stxZpy (b : Byte) : Statement (.stxZpy b) :=
  ⟨_, findRow_of_index (k := 85) rfl, rfl, rfl, rfl⟩

theorem stxAbs (w : Word) : Statement (.stxAbs w) :=
  ⟨_, findRow_of_index (k := 80) rfl, rfl, rfl, word_operand _ w⟩

theorem styZp (b : Byte) : Statement (.styZp b) :=
  ⟨_, findRow_of_index (k := 73) rfl, rfl, rfl, rfl⟩

theorem styZpx (b : Byte) : Statement (.styZpx b) :=
  ⟨_, findRow_of_index (k := 83) rfl, rfl, rfl, rfl⟩

theorem styAbs (w : Word) : Statement (.styAbs w) :=
  ⟨_, findRow_of_index (k := 78) rfl, rfl, rfl, word_operand _ w⟩

theorem tax : Statement .tax :=
  ⟨_, findRow_of_index (k := 98) rfl, rfl, rfl, rfl⟩

theorem tay : Statement .tay :=
  ⟨_, findRow_of_index (k := 96) rfl, rfl, rfl, rfl⟩

theorem txa : Statement .txa :=
  ⟨_, findRow_of_index (k := 77) rfl, rfl, rfl, rfl⟩

theorem tya : Statement .tya :=
  ⟨_, findRow_of_index (k := 86) rfl, rfl, rfl, rfl⟩

theorem tsx : Statement .tsx :=
  ⟨_, findRow_of_index (k := 109) rfl, rfl, rfl, rfl⟩

theorem txs : Statement .txs :=
  ⟨_, findRow_of_index (k := 88) rfl, rfl, rfl, rfl⟩

theorem pha : Statement .pha :=
  ⟨_, findRow_of_index (k := 40) rfl, rfl, rfl, rfl⟩

theorem php : Statement .php :=
  ⟨_, findRow_of_index (k := 4) rfl, rfl, rfl, rfl⟩

theorem pla : Statement .pla :=
  ⟨_, findRow_of_index (k := 58) rfl, rfl, rfl, rfl⟩

theorem plp : Statement .plp :=
  ⟨_, findRow_of_index (k := 22) rfl, rfl, rfl, rfl⟩

theorem adcImm (b : Byte) : Statement (.adcImm b) :=
  ⟨_, findRow_of_index (k := 59) rfl, rfl, rfl, rfl⟩

theorem adcZp (b : Byte) : Statement (.adcZp b) :=
  ⟨_, findRow_of_index (k := 56) rfl, rfl, rfl, rfl⟩

theorem adcZpx (b : Byte) : Statement (.adcZpx b) :=
  ⟨_, findRow_of_index (k := 66) rfl, rfl, rfl, rfl⟩

theorem adcAbs (w : Word) : Statement (.adcAbs w) :=
  ⟨_, findRow_of_index (k := 62) rfl, rfl, rfl, word_operand _ w⟩

theorem adcAbsx (w : Word) : Statement (.adcAbsx w) :=
  ⟨_, findRow_of_index (k := 70) rfl, rfl, rfl, word_operand _ w⟩

theorem adcAbsy (w : Word) : Statement (.adcAbsy w) :=
  ⟨_, findRow_of_index (k := 69) rfl, rfl, rfl, word_operand _ w⟩

theorem adcIndx (b : Byte) : Statement (.adcIndx b) :=
  ⟨_, findRow_of_index (k := 55) rfl, rfl, rfl, rfl⟩

theorem adcIndy (b : Byte) : Statement (.adcIndy b) :=
  ⟨_, findRow_of_index (k := 65) rfl, rfl, rfl, rfl⟩

theorem sbcImm (b : Byte) : Statement (.sbcImm b) :=
  ⟨_, findRow_of_index (k := 138) rfl, rfl, rfl, rfl⟩

theorem sbcZp (b : Byte) : Statement (.sbcZp b) :=
  ⟨_, findRow_of_index (k := 135) rfl, rfl, rfl, rfl⟩

theorem sbcZpx (b : Byte) : Statement (.sbcZpx b) :=
  ⟨_, findRow_of_index (k := 145) rfl, rfl, rfl, rfl⟩

theorem sbcAbs (w : Word) : Statement (.sbcAbs w) :=
  ⟨_, findRow_of_index (k := 141) rfl, rfl, rfl, word_operand _ w⟩

theorem sbcAbsx (w : Word) : Statement (.sbcAbsx w) :=
  ⟨_, findRow_of_index (k := 149) rfl, rfl, rfl, word_operand _ w⟩

theorem sbcAbsy (w : Word) : Statement (.sbcAbsy w) :=
  ⟨_, findRow_of_index (k := 148) rfl, rfl, rfl, word_operand _ w⟩

theorem sbcIndx (b : Byte) : Statement (.sbcIndx b) :=
  ⟨_, findRow_of_index (k := 133) rfl, rfl, rfl, rfl⟩

theorem sbcIndy (b : Byte) : Statement (.sbcIndy b) :=
  ⟨_, findRow_of_index (k := 144) rfl, rfl, rfl, rfl⟩

theorem andImm (b : Byte) : Statement (.andImm b) :=
  ⟨_, findRow_of_index (k := 23) rfl, rfl, rfl, rfl⟩

theorem andZp (b : Byte) : Statement (.andZp b) :=
  ⟨_, findRow_of_index (k := 20) rfl, rfl, rfl, rfl⟩

theorem andZpx (b : Byte) : Statement (.andZpx b) :=
  ⟨_, findRow_of_index (k := 30) rfl, rfl, rfl, rfl⟩

theorem andAbs (w : Word) : Statement (.andAbs w) :=
  ⟨_, findRow_of_index (k := 26) rfl, rfl, rfl, word_operand _ w⟩

theorem andAbsx (w : Word) : Statement (.andAbsx w) :=
  ⟨_, findRow_of_index (k := 34) rfl, rfl, rfl, word_operand _ w⟩

theorem andAbsy (w : Word) : Statement (.andAbsy w) :=
  ⟨_, findRow_of_index (k := 33) rfl, rfl, rfl, word_operand _ w⟩

theorem andIndx (b : Byte) : Statement (.andIndx b) :=
  ⟨_, findRow_of_index (k := 18) rfl, rfl, rfl, rfl⟩

theorem andIndy (b : Byte) : Statement (.andIndy b) :=
  ⟨_, findRow_of_index (k := 29) rfl, rfl, rfl, rfl⟩

theorem oraImm (b : Byte) : Statement (.oraImm b) :=
  ⟨_, findRow_of_index (k := 5) rfl, rfl, rfl, rfl⟩

theorem oraZp (b : Byte) : Statement (.oraZp b) :=
  ⟨_, findRow_of_index (k := 2) rfl, rfl, rfl, rfl⟩

theorem oraZpx (b : Byte) : Statement (.oraZpx b) :=
  ⟨_, findRow_of_index (k := 11) rfl, rfl, rfl, rfl⟩

theorem oraAbs (w : Word) : Statement (.oraAbs w) :=
  ⟨_, findRow_of_index (k := 7) rfl, rfl, rfl, word_operand _ w⟩

theorem oraAbsx (w : Word) : Statement (.oraAbsx w) :=
  ⟨_, findRow_of_index (k := 15) rfl, rfl, rfl, word_operand _ w⟩

theorem oraAbsy (w : Word) : Statement (.oraAbsy w) :=
  ⟨_, findRow_of_index (k := 14) rfl, rfl, rfl, word_operand _ w⟩

theorem oraIndx (b : Byte) : Statement (.oraIndx b) :=
  ⟨_, findRow_of_index (k := 1) rfl, rfl, rfl, rfl⟩

theorem oraIndy (b : Byte) : Statement (.oraIndy b) :=
  ⟨_, findRow_of_index (k := 10) rfl, rfl, rfl, rfl⟩

theorem eorImm (b : Byte) : Statement (.eorImm b) :=
  ⟨_, findRow_of_index (k := 41) rfl, rfl, rfl, rfl⟩

theorem eorZp (b : Byte) : Statement (.eorZp b) :=
  ⟨_, findRow_of_index (k := 38) rfl, rfl, rfl, rfl⟩

theorem eorZpx (b : Byte) : Statement (.eorZpx b) :=
  ⟨_, findRow_of_index (k := 48) rfl, rfl, rfl, rfl⟩

theorem eorAbs (w : Word) : Statement (.eorAbs w) :=
  ⟨_, findRow_of_index (k := 44) rfl, rfl, rfl, word_operand _ w⟩

theorem eorAbsx (w : Word) : Statement (.eorAbsx w) :=
  ⟨_, findRow_of_index (k := 52) rfl, rfl, rfl, word_operand _ w⟩

theorem eorAbsy (w : Word) : Statement (.eorAbsy w) :=
  ⟨_, findRow_of_index (k := 51) rfl, rfl, rfl, word_operand _ w⟩

theorem eorIndx (b : Byte) : Statement (.eorIndx b) :=
  ⟨_, findRow_of_index (k := 37) rfl, rfl, rfl, rfl⟩

theorem eorIndy (b : Byte) : Statement (.eorIndy b) :=
  ⟨_, findRow_of_index (k := 47) rfl, rfl, rfl, rfl⟩

theorem cmpImm (b : Byte) : Statement (.cmpImm b) :=
  ⟨_, findRow_of_index (k := 119) rfl, rfl, rfl, rfl⟩

theorem cmpZp (b : Byte) : Statement (.cmpZp b) :=
  ⟨_, findRow_of_index (k := 116) rfl, rfl, rfl, rfl⟩

theorem cmpZpx (b : Byte) : Statement (.cmpZpx b) :=
  ⟨_, findRow_of_index (k := 126) rfl, rfl, rfl, rfl⟩

theorem cmpAbs (w : Word) : Statement (.cmpAbs w) :=
  ⟨_, findRow_of_index (k := 122) rfl, rfl, rfl, word_operand _ w⟩

theorem cmpAbsx (w : Word) : Statement (.cmpAbsx w) :=
  ⟨_, findRow_of_index (k := 130) rfl, rfl, rfl, word_operand _ w⟩

theorem cmpAbsy (w : Word) : Statement (.cmpAbsy w) :=
  ⟨_, findRow_of_index (k := 129) rfl, rfl, rfl, word_operand _ w⟩

theorem cmpIndx (b : Byte) : Statement (.cmpIndx b) :=
  ⟨_, findRow_of_index (k := 114) rfl, rfl, rfl, rfl⟩

theorem cmpIndy (b : Byte) : Statement (.cmpIndy b) :=
  ⟨_, findRow_of_index (k := 125) rfl, rfl, rfl, rfl⟩

theorem cpxImm (b : Byte) : Statement (.cpxImm b) :=
  ⟨_, findRow_of_index (k := 132) rfl, rfl, rfl, rfl⟩

theorem cpxZp (b : Byte) : Statement (.cpxZp b) :=
  ⟨_, findRow_of_index (k := 134) rfl, rfl, rfl, rfl⟩

theorem cpxAbs (w : Word) : Statement (.cpxAbs w) :=
  ⟨_, findRow_of_index (k := 140) rfl, rfl, rfl, word_operand _ w⟩

theorem cpyImm (b : Byte) : Statement (.cpyImm b) :=
  ⟨_, findRow_of_index (k := 113) rfl, rfl, rfl, rfl⟩

theorem cpyZp (b : Byte) : Statement (.cpyZp b) :=
  ⟨_, findRow_of_index (k := 115) rfl, rfl, rfl, rfl⟩

theorem cpyAbs (w : Word) : Statement (.cpyAbs w) :=
  ⟨_, findRow_of_index (k := 121) rfl, rfl, rfl, word_operand _ w⟩

theorem bitZp (b : Byte) : Statement (.bitZp b) :=
  ⟨_, findRow_of_index (k := 19) rfl, rfl, rfl, rfl⟩

theorem bitAbs (w : Word) : Statement (.bitAbs w) :=
  ⟨_, findRow_of_index (k := 25) rfl, rfl, rfl, word_operand _ w⟩

theorem incZp (b : Byte) : Statement (.incZp b) :=
  ⟨_, findRow_of_index (k := 136) rfl, rfl, rfl, rfl⟩

theorem incZpx (b : Byte) : Statement (.incZpx b) :=
  ⟨_, findRow_of_index (k := 146) rfl, rfl, rfl, rfl⟩

theorem incAbs (w : Word) : Statement (.incAbs w) :=
  ⟨_, findRow_of_index (k := 142) rfl, rfl, rfl, word_operand _ w⟩

theorem incAbsx (w : Word) : Statement (.incAbsx w) :=
  ⟨_, findRow_of_index (k := 150) rfl, rfl, rfl, word_operand _ w⟩

theorem decZp (b : Byte) : Statement (.decZp b) :=
  ⟨_, findRow_of_index (k := 117) rfl, rfl, rfl, rfl⟩

theorem decZpx (b : Byte) : Statement (.decZpx b) :=
  ⟨_, findRow_of_index (k := 127) rfl, rfl, rfl, rfl⟩

theorem decAbs (w : Word) : Statement (.decAbs w) :=
  ⟨_, findRow_of_index (k := 123) rfl, rfl, rfl, word_operand _ w⟩

theorem decAbsx (w : Word) : Statement (.decAbsx w) :=
  ⟨_, findRow_of_index (k := 131) rfl, rfl, rfl, word_operand _ w⟩

theorem inx : Statement .inx :=
  ⟨_, findRow_of_index (k := 137) rfl, rfl, rfl, rfl⟩

theorem iny : Statement .iny :=
  ⟨_, findRow_of_index (k := 118) rfl, rfl, rfl, rfl⟩

theorem dex : Statement .dex :=
  ⟨_, findRow_of_index (k := 120) rfl, rfl, rfl, rfl⟩

theorem dey : Statement .dey :=
  ⟨_, findRow_of_index (k := 76) rfl, rfl, rfl, rfl⟩

theorem aslAcc : Statement .aslAcc :=
  ⟨_, findRow_of_index (k := 6) rfl, rfl, rfl, rfl⟩

theorem aslZp (b : Byte) : Statement (.aslZp b) :=
  ⟨_, findRow_of_index (k := 3) rfl, rfl, rfl, rfl⟩

theorem aslZpx (b : Byte) : Statement (.aslZpx b) :=
  ⟨_, findRow_of_index (k := 12) rfl, rfl, rfl, rfl⟩

theorem aslAbs (w : Word) : Statement (.aslAbs w) :=
  ⟨_, findRow_of_index (k := 8) rfl, rfl, rfl, word_operand _ w⟩

theorem aslAbsx (w : Word) : Statement (.aslAbsx w) :=
  ⟨_, findRow_of_index (k := 16) rfl, rfl, rfl, word_operand _ w⟩

theorem lsrAcc : Statement .lsrAcc :=
  ⟨_, findRow_of_index (k := 42) rfl, rfl, rfl, rfl⟩

theorem lsrZp (b : Byte) : Statement (.lsrZp b) :=
  ⟨_, findRow_of_index (k := 39) rfl, rfl, rfl, rfl⟩

theorem lsrZpx (b : Byte) : Statement (.lsrZpx b) :=
  ⟨_, findRow_of_index (k := 49) rfl, rfl, rfl, rfl⟩

theorem lsrAbs (w : Word) : Statement (.lsrAbs w) :=
  ⟨_, findRow_of_index (k := 45) rfl, rfl, rfl, word_operand _ w⟩

theorem lsrAbsx (w : Word) : Statement (.lsrAbsx w) :=
  ⟨_, findRow_of_index (k := 53) rfl, rfl, rfl, word_operand _ w⟩

theorem rolAcc : Statement .rolAcc :=
  ⟨_, findRow_of_index (k := 24) rfl, rfl, rfl, rfl⟩

theorem rolZp (b : Byte) : Statement (.rolZp b) :=
  ⟨_, findRow_of_index (k := 21) rfl, rfl, rfl, rfl⟩

theorem rolZpx (b : Byte) : Statement (.rolZpx b) :=
  ⟨_, findRow_of_index (k := 31) rfl, rfl, rfl, rfl⟩

theorem rolAbs (w : Word) : Statement (.rolAbs w) :=
  ⟨_, findRow_of_index (k := 27) rfl, rfl, rfl, word_operand _ w⟩

theorem rolAbsx (w : Word) : Statement (.rolAbsx w) :=
  ⟨_, findRow_of_index (k := 35) rfl, rfl, rfl, word_operand _ w⟩

theorem rorAcc : Statement .rorAcc :=
  ⟨_, findRow_of_index (k := 60) rfl, rfl, rfl, rfl⟩

theorem rorZp (b : Byte) : Statement (.rorZp b) :=
  ⟨_, findRow_of_index (k := 57) rfl, rfl, rfl, rfl⟩

theorem rorZpx (b : Byte) : Statement (.rorZpx b) :=
  ⟨_, findRow_of_index (k := 67) rfl, rfl, rfl, rfl⟩

theorem rorAbs (w : Word) : Statement (.rorAbs w) :=
  ⟨_, findRow_of_index (k := 63) rfl, rfl, rfl, word_operand _ w⟩

theorem rorAbsx (w : Word) : Statement (.rorAbsx w) :=
  ⟨_, findRow_of_index (k := 71) rfl, rfl, rfl, word_operand _ w⟩

theorem jmpAbs (w : Word) : Statement (.jmpAbs w) :=
  ⟨_, findRow_of_index (k := 43) rfl, rfl, rfl, word_operand _ w⟩

theorem jmpInd (w : Word) : Statement (.jmpInd w) :=
  ⟨_, findRow_of_index (k := 61) rfl, rfl, rfl, word_operand _ w⟩

theorem jsr (w : Word) : Statement (.jsr w) :=
  ⟨_, findRow_of_index (k := 17) rfl, rfl, rfl, word_operand _ w⟩

theorem rts : Statement .rts :=
  ⟨_, findRow_of_index (k := 54) rfl, rfl, rfl, rfl⟩

theorem rti : Statement .rti :=
  ⟨_, findRow_of_index (k := 36) rfl, rfl, rfl, rfl⟩

theorem bcc (b : Byte) : Statement (.bcc b) :=
  ⟨_, findRow_of_index (k := 81) rfl, rfl, rfl, rfl⟩

theorem bcs (b : Byte) : Statement (.bcs b) :=
  ⟨_, findRow_of_index (k := 102) rfl, rfl, rfl, rfl⟩

theorem beq (b : Byte) : Statement (.beq b) :=
  ⟨_, findRow_of_index (k := 143) rfl, rfl, rfl, rfl⟩

theorem bne (b : Byte) : Statement (.bne b) :=
  ⟨_, findRow_of_index (k := 124) rfl, rfl, rfl, rfl⟩

theorem bmi (b : Byte) : Statement (.bmi b) :=
  ⟨_, findRow_of_index (k := 28) rfl, rfl, rfl, rfl⟩

theorem bpl (b : Byte) : Statement (.bpl b) :=
  ⟨_, findRow_of_index (k := 9) rfl, rfl, rfl, rfl⟩

theorem bvc (b : Byte) : Statement (.bvc b) :=
  ⟨_, findRow_of_index (k := 46) rfl, rfl, rfl, rfl⟩

theorem bvs (b : Byte) : Statement (.bvs b) :=
  ⟨_, findRow_of_index (k := 64) rfl, rfl, rfl, rfl⟩

theorem clc : Statement .clc :=
  ⟨_, findRow_of_index (k := 13) rfl, rfl, rfl, rfl⟩

theorem sec : Statement .sec :=
  ⟨_, findRow_of_index (k := 32) rfl, rfl, rfl, rfl⟩

theorem cli : Statement .cli :=
  ⟨_, findRow_of_index (k := 50) rfl, rfl, rfl, rfl⟩

theorem sei : Statement .sei :=
  ⟨_, findRow_of_index (k := 68) rfl, rfl, rfl, rfl⟩

theorem cld : Statement .cld :=
  ⟨_, findRow_of_index (k := 128) rfl, rfl, rfl, rfl⟩

theorem sed : Statement .sed :=
  ⟨_, findRow_of_index (k := 147) rfl, rfl, rfl, rfl⟩

theorem clv : Statement .clv :=
  ⟨_, findRow_of_index (k := 107) rfl, rfl, rfl, rfl⟩

theorem nop : Statement .nop :=
  ⟨_, findRow_of_index (k := 139) rfl, rfl, rfl, rfl⟩

theorem brk : Statement .brk :=
  ⟨_, findRow_of_index (k := 0) rfl, rfl, rfl, rfl⟩

end Sys2Proof.Laws.OpcodeRow
end

