-- ==== Sys2Proof/Laws/Rows.lean ====
section
/-! SUPPORT. Every instruction has its row in R95's table, and what follows for the encodings of a mnemonic. -/

namespace Sys2Proof.Machine

open Sys2Proof.Laws

theorem opcodeRow (i : Instr) : OpcodeRow.Statement i :=
  match i with
  | .ldaImm b => OpcodeRow.ldaImm b
  | .ldaZp z => OpcodeRow.ldaZp z
  | .ldaZpx z => OpcodeRow.ldaZpx z
  | .ldaAbs w => OpcodeRow.ldaAbs w
  | .ldaAbsx w => OpcodeRow.ldaAbsx w
  | .ldaAbsy w => OpcodeRow.ldaAbsy w
  | .ldaIndx z => OpcodeRow.ldaIndx z
  | .ldaIndy z => OpcodeRow.ldaIndy z
  | .ldxImm b => OpcodeRow.ldxImm b
  | .ldxZp z => OpcodeRow.ldxZp z
  | .ldxZpy z => OpcodeRow.ldxZpy z
  | .ldxAbs w => OpcodeRow.ldxAbs w
  | .ldxAbsy w => OpcodeRow.ldxAbsy w
  | .ldyImm b => OpcodeRow.ldyImm b
  | .ldyZp z => OpcodeRow.ldyZp z
  | .ldyZpx z => OpcodeRow.ldyZpx z
  | .ldyAbs w => OpcodeRow.ldyAbs w
  | .ldyAbsx w => OpcodeRow.ldyAbsx w
  | .staZp z => OpcodeRow.staZp z
  | .staZpx z => OpcodeRow.staZpx z
  | .staAbs w => OpcodeRow.staAbs w
  | .staAbsx w => OpcodeRow.staAbsx w
  | .staAbsy w => OpcodeRow.staAbsy w
  | .staIndx z => OpcodeRow.staIndx z
  | .staIndy z => OpcodeRow.staIndy z
  | .stxZp z => OpcodeRow.stxZp z
  | .stxZpy z => OpcodeRow.stxZpy z
  | .stxAbs w => OpcodeRow.stxAbs w
  | .styZp z => OpcodeRow.styZp z
  | .styZpx z => OpcodeRow.styZpx z
  | .styAbs w => OpcodeRow.styAbs w
  | .tax => OpcodeRow.tax
  | .tay => OpcodeRow.tay
  | .txa => OpcodeRow.txa
  | .tya => OpcodeRow.tya
  | .tsx => OpcodeRow.tsx
  | .txs => OpcodeRow.txs
  | .pha => OpcodeRow.pha
  | .php => OpcodeRow.php
  | .pla => OpcodeRow.pla
  | .plp => OpcodeRow.plp
  | .adcImm b => OpcodeRow.adcImm b
  | .adcZp z => OpcodeRow.adcZp z
  | .adcZpx z => OpcodeRow.adcZpx z
  | .adcAbs w => OpcodeRow.adcAbs w
  | .adcAbsx w => OpcodeRow.adcAbsx w
  | .adcAbsy w => OpcodeRow.adcAbsy w
  | .adcIndx z => OpcodeRow.adcIndx z
  | .adcIndy z => OpcodeRow.adcIndy z
  | .sbcImm b => OpcodeRow.sbcImm b
  | .sbcZp z => OpcodeRow.sbcZp z
  | .sbcZpx z => OpcodeRow.sbcZpx z
  | .sbcAbs w => OpcodeRow.sbcAbs w
  | .sbcAbsx w => OpcodeRow.sbcAbsx w
  | .sbcAbsy w => OpcodeRow.sbcAbsy w
  | .sbcIndx z => OpcodeRow.sbcIndx z
  | .sbcIndy z => OpcodeRow.sbcIndy z
  | .andImm b => OpcodeRow.andImm b
  | .andZp z => OpcodeRow.andZp z
  | .andZpx z => OpcodeRow.andZpx z
  | .andAbs w => OpcodeRow.andAbs w
  | .andAbsx w => OpcodeRow.andAbsx w
  | .andAbsy w => OpcodeRow.andAbsy w
  | .andIndx z => OpcodeRow.andIndx z
  | .andIndy z => OpcodeRow.andIndy z
  | .oraImm b => OpcodeRow.oraImm b
  | .oraZp z => OpcodeRow.oraZp z
  | .oraZpx z => OpcodeRow.oraZpx z
  | .oraAbs w => OpcodeRow.oraAbs w
  | .oraAbsx w => OpcodeRow.oraAbsx w
  | .oraAbsy w => OpcodeRow.oraAbsy w
  | .oraIndx z => OpcodeRow.oraIndx z
  | .oraIndy z => OpcodeRow.oraIndy z
  | .eorImm b => OpcodeRow.eorImm b
  | .eorZp z => OpcodeRow.eorZp z
  | .eorZpx z => OpcodeRow.eorZpx z
  | .eorAbs w => OpcodeRow.eorAbs w
  | .eorAbsx w => OpcodeRow.eorAbsx w
  | .eorAbsy w => OpcodeRow.eorAbsy w
  | .eorIndx z => OpcodeRow.eorIndx z
  | .eorIndy z => OpcodeRow.eorIndy z
  | .cmpImm b => OpcodeRow.cmpImm b
  | .cmpZp z => OpcodeRow.cmpZp z
  | .cmpZpx z => OpcodeRow.cmpZpx z
  | .cmpAbs w => OpcodeRow.cmpAbs w
  | .cmpAbsx w => OpcodeRow.cmpAbsx w
  | .cmpAbsy w => OpcodeRow.cmpAbsy w
  | .cmpIndx z => OpcodeRow.cmpIndx z
  | .cmpIndy z => OpcodeRow.cmpIndy z
  | .cpxImm b => OpcodeRow.cpxImm b
  | .cpxZp z => OpcodeRow.cpxZp z
  | .cpxAbs w => OpcodeRow.cpxAbs w
  | .cpyImm b => OpcodeRow.cpyImm b
  | .cpyZp z => OpcodeRow.cpyZp z
  | .cpyAbs w => OpcodeRow.cpyAbs w
  | .bitZp z => OpcodeRow.bitZp z
  | .bitAbs w => OpcodeRow.bitAbs w
  | .incZp z => OpcodeRow.incZp z
  | .incZpx z => OpcodeRow.incZpx z
  | .incAbs w => OpcodeRow.incAbs w
  | .incAbsx w => OpcodeRow.incAbsx w
  | .decZp z => OpcodeRow.decZp z
  | .decZpx z => OpcodeRow.decZpx z
  | .decAbs w => OpcodeRow.decAbs w
  | .decAbsx w => OpcodeRow.decAbsx w
  | .inx => OpcodeRow.inx
  | .iny => OpcodeRow.iny
  | .dex => OpcodeRow.dex
  | .dey => OpcodeRow.dey
  | .aslAcc => OpcodeRow.aslAcc
  | .aslZp z => OpcodeRow.aslZp z
  | .aslZpx z => OpcodeRow.aslZpx z
  | .aslAbs w => OpcodeRow.aslAbs w
  | .aslAbsx w => OpcodeRow.aslAbsx w
  | .lsrAcc => OpcodeRow.lsrAcc
  | .lsrZp z => OpcodeRow.lsrZp z
  | .lsrZpx z => OpcodeRow.lsrZpx z
  | .lsrAbs w => OpcodeRow.lsrAbs w
  | .lsrAbsx w => OpcodeRow.lsrAbsx w
  | .rolAcc => OpcodeRow.rolAcc
  | .rolZp z => OpcodeRow.rolZp z
  | .rolZpx z => OpcodeRow.rolZpx z
  | .rolAbs w => OpcodeRow.rolAbs w
  | .rolAbsx w => OpcodeRow.rolAbsx w
  | .rorAcc => OpcodeRow.rorAcc
  | .rorZp z => OpcodeRow.rorZp z
  | .rorZpx z => OpcodeRow.rorZpx z
  | .rorAbs w => OpcodeRow.rorAbs w
  | .rorAbsx w => OpcodeRow.rorAbsx w
  | .jmpAbs w => OpcodeRow.jmpAbs w
  | .jmpInd w => OpcodeRow.jmpInd w
  | .jsr w => OpcodeRow.jsr w
  | .rts => OpcodeRow.rts
  | .rti => OpcodeRow.rti
  | .bcc r => OpcodeRow.bcc r
  | .bcs r => OpcodeRow.bcs r
  | .beq r => OpcodeRow.beq r
  | .bne r => OpcodeRow.bne r
  | .bmi r => OpcodeRow.bmi r
  | .bpl r => OpcodeRow.bpl r
  | .bvc r => OpcodeRow.bvc r
  | .bvs r => OpcodeRow.bvs r
  | .clc => OpcodeRow.clc
  | .sec => OpcodeRow.sec
  | .cli => OpcodeRow.cli
  | .sei => OpcodeRow.sei
  | .cld => OpcodeRow.cld
  | .sed => OpcodeRow.sed
  | .clv => OpcodeRow.clv
  | .nop => OpcodeRow.nop
  | .brk => OpcodeRow.brk

/-- The row of an instruction: in the table, with its mnemonic, its opcode and its mode. -/
theorem row_mem (i : Instr) :
    ∃ r ∈ opcodeTable, r.mnemonic = i.mnemonic ∧ r.opcode = i.opcode ∧ r.mode = i.operand.mode := by
  obtain ⟨r, hr, hm, ho, -⟩ := opcodeRow i
  exact ⟨r, (mem_of_findRow hr).1, hm, (mem_of_findRow hr).2, ho⟩

/-- The encodings of a mnemonic are those of its rows, so a finite check of the table gives them. -/
theorem encodedAs_of_rows {m : Mnemonic} {forms : List (Byte × Mode)}
    (h : ∀ r ∈ opcodeTable, r.mnemonic = m ↔ (r.opcode, r.mode) ∈ forms) : encodedAs m forms := by
  intro i
  obtain ⟨r, hr, hm, hop, hmode⟩ := row_mem i
  rw [← hm, ← hop, ← hmode]
  exact h r hr

end Sys2Proof.Machine
end

