-- ==== Sys2Proof/Tests/Slice0.lean ====
section
/-! SUPPORT. Small tests. Every expected value is the spec's: the opcode map (R95) and the operand order (R90, R92) for the
decode tests, the launch premise (R8) for the ill-formed terms, the vectors of 95_test_vectors.md for the rest. After
them, for every statement of Certificates/Slice0/Obligations.lean that has hypotheses, a state and operands that meet
them (`witness_<Name>`). -/

namespace Sys2Proof.Tests

open Sys2Proof Sys2Proof.Machine

-- The theorems below are checked one after another: each holds a thread while the kernel evaluates it.
set_option Elab.async false

/-! ### Well-formedness (R8, R225) -/

theorem test_default_wellFormed : Config.default.wellFormed = true := by decide +kernel

theorem test_zero_noise_period_refused :
    { Config.default with noisePeriod := Config.default.noisePeriod.set 0 0 }.wellFormed = false := by decide +kernel

theorem test_zero_dmc_rate_refused :
    { Config.default with dmcRate := Config.default.dmcRate.set 15 0 }.wellFormed = false := by decide +kernel

theorem test_zero_play_period_refused : { Config.default with playPeriod := 0 }.wellFormed = false := by decide +kernel

theorem test_zero_halt_cost_refused : { Config.default with haltCost := 0 }.wellFormed = false := by decide +kernel

theorem test_equal_sentinels_refused : { Config.default with sentinelPlay := 0x5000 }.wellFormed = false := by
  decide +kernel

theorem test_duty_two_refused :
    { Config.default with duty := Config.default.duty.set 3 (Config.default.duty[3].set 7 2) }.wellFormed = false := by
  decide +kernel

theorem test_zero_cpu_hz_refused : { Config.default with cpuHz := 0 }.wellFormed = false := by decide +kernel

theorem test_sweep_limit_4096_refused : { Config.default with sweepLimit := 4096 }.wellFormed = false := by
  decide +kernel

theorem test_zero_pulse_min_refused : { Config.default with pulseMinPeriod := 0 }.wellFormed = false := by
  decide +kernel

theorem test_length_256_refused :
    { Config.default with lengthTable := Config.default.lengthTable.set 31 256 }.wellFormed = false := by decide +kernel

theorem test_small_ram_refused : { Config.default with ramSize := 0x1FF }.wellFormed = false := by decide +kernel

theorem test_bank_base_high_refused : { Config.default with bankBase := 0x7FF9 }.wellFormed = false := by decide +kernel

theorem test_bank_base_low_refused : { Config.default with bankBase := 0x4017 }.wellFormed = false := by decide +kernel

theorem test_brk_unsupported_by_default : Instr.wellFormed Config.default .brk = false := by decide +kernel

theorem test_brk_supported_standard : Instr.wellFormed { Config.default with brk := .standard } .brk = true := by
  decide +kernel

/-! ### Decoding: one word of every row of the opcode map (R95), its operand bytes low byte first (R92) -/

/-- Whether bytes decode to an instruction with no byte left. -/
def decodesTo (p : List Byte × Instr) : Bool :=
  match decode p.1 with
  | .ok (i, []) => i == p.2
  | _ => false

/-- Whether every pair of bytes and instruction decodes so. -/
def decodesAll (ps : List (List Byte × Instr)) : Bool :=
  ps.all decodesTo

theorem test_decode_load : decodesAll [
    ([0xA9, 0x9C], .ldaImm 0x9C), ([0xA5, 0x9C], .ldaZp 0x9C), ([0xB5, 0x9C], .ldaZpx 0x9C),
    ([0xAD, 0x34, 0xD2], .ldaAbs 0xD234), ([0xBD, 0x34, 0xD2], .ldaAbsx 0xD234),
    ([0xB9, 0x34, 0xD2], .ldaAbsy 0xD234), ([0xA1, 0x9C], .ldaIndx 0x9C), ([0xB1, 0x9C], .ldaIndy 0x9C),
    ([0xA2, 0x9C], .ldxImm 0x9C), ([0xA6, 0x9C], .ldxZp 0x9C), ([0xB6, 0x9C], .ldxZpy 0x9C),
    ([0xAE, 0x34, 0xD2], .ldxAbs 0xD234), ([0xBE, 0x34, 0xD2], .ldxAbsy 0xD234), ([0xA0, 0x9C], .ldyImm 0x9C),
    ([0xA4, 0x9C], .ldyZp 0x9C), ([0xB4, 0x9C], .ldyZpx 0x9C), ([0xAC, 0x34, 0xD2], .ldyAbs 0xD234),
    ([0xBC, 0x34, 0xD2], .ldyAbsx 0xD234)] = true := by
  decide +kernel

theorem test_decode_store : decodesAll [
    ([0x85, 0x9C], .staZp 0x9C), ([0x95, 0x9C], .staZpx 0x9C), ([0x8D, 0x34, 0xD2], .staAbs 0xD234),
    ([0x9D, 0x34, 0xD2], .staAbsx 0xD234), ([0x99, 0x34, 0xD2], .staAbsy 0xD234), ([0x81, 0x9C], .staIndx 0x9C),
    ([0x91, 0x9C], .staIndy 0x9C), ([0x86, 0x9C], .stxZp 0x9C), ([0x96, 0x9C], .stxZpy 0x9C),
    ([0x8E, 0x34, 0xD2], .stxAbs 0xD234), ([0x84, 0x9C], .styZp 0x9C), ([0x94, 0x9C], .styZpx 0x9C),
    ([0x8C, 0x34, 0xD2], .styAbs 0xD234)] = true := by
  decide +kernel

theorem test_decode_transfer : decodesAll [
    ([0xAA], .tax), ([0xA8], .tay), ([0x8A], .txa), ([0x98], .tya), ([0xBA], .tsx), ([0x9A], .txs)] = true := by
  decide +kernel

theorem test_decode_stack : decodesAll [
    ([0x48], .pha), ([0x08], .php), ([0x68], .pla), ([0x28], .plp)] = true := by
  decide +kernel

theorem test_decode_addSubtract : decodesAll [
    ([0x69, 0x9C], .adcImm 0x9C), ([0x65, 0x9C], .adcZp 0x9C), ([0x75, 0x9C], .adcZpx 0x9C),
    ([0x6D, 0x34, 0xD2], .adcAbs 0xD234), ([0x7D, 0x34, 0xD2], .adcAbsx 0xD234),
    ([0x79, 0x34, 0xD2], .adcAbsy 0xD234), ([0x61, 0x9C], .adcIndx 0x9C), ([0x71, 0x9C], .adcIndy 0x9C),
    ([0xE9, 0x9C], .sbcImm 0x9C), ([0xE5, 0x9C], .sbcZp 0x9C), ([0xF5, 0x9C], .sbcZpx 0x9C),
    ([0xED, 0x34, 0xD2], .sbcAbs 0xD234), ([0xFD, 0x34, 0xD2], .sbcAbsx 0xD234),
    ([0xF9, 0x34, 0xD2], .sbcAbsy 0xD234), ([0xE1, 0x9C], .sbcIndx 0x9C), ([0xF1, 0x9C], .sbcIndy 0x9C)] = true := by
  decide +kernel

theorem test_decode_logic : decodesAll [
    ([0x29, 0x9C], .andImm 0x9C), ([0x25, 0x9C], .andZp 0x9C), ([0x35, 0x9C], .andZpx 0x9C),
    ([0x2D, 0x34, 0xD2], .andAbs 0xD234), ([0x3D, 0x34, 0xD2], .andAbsx 0xD234),
    ([0x39, 0x34, 0xD2], .andAbsy 0xD234), ([0x21, 0x9C], .andIndx 0x9C), ([0x31, 0x9C], .andIndy 0x9C),
    ([0x09, 0x9C], .oraImm 0x9C), ([0x05, 0x9C], .oraZp 0x9C), ([0x15, 0x9C], .oraZpx 0x9C),
    ([0x0D, 0x34, 0xD2], .oraAbs 0xD234), ([0x1D, 0x34, 0xD2], .oraAbsx 0xD234),
    ([0x19, 0x34, 0xD2], .oraAbsy 0xD234), ([0x01, 0x9C], .oraIndx 0x9C), ([0x11, 0x9C], .oraIndy 0x9C),
    ([0x49, 0x9C], .eorImm 0x9C), ([0x45, 0x9C], .eorZp 0x9C), ([0x55, 0x9C], .eorZpx 0x9C),
    ([0x4D, 0x34, 0xD2], .eorAbs 0xD234), ([0x5D, 0x34, 0xD2], .eorAbsx 0xD234),
    ([0x59, 0x34, 0xD2], .eorAbsy 0xD234), ([0x41, 0x9C], .eorIndx 0x9C), ([0x51, 0x9C], .eorIndy 0x9C)] = true := by
  decide +kernel

theorem test_decode_compare : decodesAll [
    ([0xC9, 0x9C], .cmpImm 0x9C), ([0xC5, 0x9C], .cmpZp 0x9C), ([0xD5, 0x9C], .cmpZpx 0x9C),
    ([0xCD, 0x34, 0xD2], .cmpAbs 0xD234), ([0xDD, 0x34, 0xD2], .cmpAbsx 0xD234),
    ([0xD9, 0x34, 0xD2], .cmpAbsy 0xD234), ([0xC1, 0x9C], .cmpIndx 0x9C), ([0xD1, 0x9C], .cmpIndy 0x9C),
    ([0xE0, 0x9C], .cpxImm 0x9C), ([0xE4, 0x9C], .cpxZp 0x9C), ([0xEC, 0x34, 0xD2], .cpxAbs 0xD234),
    ([0xC0, 0x9C], .cpyImm 0x9C), ([0xC4, 0x9C], .cpyZp 0x9C), ([0xCC, 0x34, 0xD2], .cpyAbs 0xD234),
    ([0x24, 0x9C], .bitZp 0x9C), ([0x2C, 0x34, 0xD2], .bitAbs 0xD234)] = true := by
  decide +kernel

theorem test_decode_incrementDecrement : decodesAll [
    ([0xE6, 0x9C], .incZp 0x9C), ([0xF6, 0x9C], .incZpx 0x9C), ([0xEE, 0x34, 0xD2], .incAbs 0xD234),
    ([0xFE, 0x34, 0xD2], .incAbsx 0xD234), ([0xC6, 0x9C], .decZp 0x9C), ([0xD6, 0x9C], .decZpx 0x9C),
    ([0xCE, 0x34, 0xD2], .decAbs 0xD234), ([0xDE, 0x34, 0xD2], .decAbsx 0xD234), ([0xE8], .inx), ([0xC8], .iny),
    ([0xCA], .dex), ([0x88], .dey)] = true := by
  decide +kernel

theorem test_decode_shift : decodesAll [
    ([0x0A], .aslAcc), ([0x06, 0x9C], .aslZp 0x9C), ([0x16, 0x9C], .aslZpx 0x9C),
    ([0x0E, 0x34, 0xD2], .aslAbs 0xD234), ([0x1E, 0x34, 0xD2], .aslAbsx 0xD234), ([0x4A], .lsrAcc),
    ([0x46, 0x9C], .lsrZp 0x9C), ([0x56, 0x9C], .lsrZpx 0x9C), ([0x4E, 0x34, 0xD2], .lsrAbs 0xD234),
    ([0x5E, 0x34, 0xD2], .lsrAbsx 0xD234)] = true := by
  decide +kernel

theorem test_decode_rotate : decodesAll [
    ([0x2A], .rolAcc), ([0x26, 0x9C], .rolZp 0x9C), ([0x36, 0x9C], .rolZpx 0x9C),
    ([0x2E, 0x34, 0xD2], .rolAbs 0xD234), ([0x3E, 0x34, 0xD2], .rolAbsx 0xD234), ([0x6A], .rorAcc),
    ([0x66, 0x9C], .rorZp 0x9C), ([0x76, 0x9C], .rorZpx 0x9C), ([0x6E, 0x34, 0xD2], .rorAbs 0xD234),
    ([0x7E, 0x34, 0xD2], .rorAbsx 0xD234)] = true := by
  decide +kernel

theorem test_decode_jump : decodesAll [
    ([0x4C, 0x34, 0xD2], .jmpAbs 0xD234), ([0x6C, 0x34, 0xD2], .jmpInd 0xD234), ([0x20, 0x34, 0xD2], .jsr 0xD234),
    ([0x60], .rts), ([0x40], .rti), ([0x00], .brk)] = true := by
  decide +kernel

theorem test_decode_branch : decodesAll [
    ([0x90, 0x9C], .bcc 0x9C), ([0xB0, 0x9C], .bcs 0x9C), ([0xF0, 0x9C], .beq 0x9C), ([0xD0, 0x9C], .bne 0x9C),
    ([0x30, 0x9C], .bmi 0x9C), ([0x10, 0x9C], .bpl 0x9C), ([0x50, 0x9C], .bvc 0x9C), ([0x70, 0x9C], .bvs 0x9C)] = true := by
  decide +kernel

theorem test_decode_flag : decodesAll [
    ([0x18], .clc), ([0x38], .sec), ([0x58], .cli), ([0x78], .sei), ([0xD8], .cld), ([0xF8], .sed), ([0xB8], .clv),
    ([0xEA], .nop)] = true := by
  decide +kernel

theorem test_decode_unsupported : decode [0x02] = .error (.unsupportedOpcode 0x02) ∧
    decode [0xFF, 0x00, 0x00] = .error (.unsupportedOpcode 0xFF) := ⟨rfl, rfl⟩

theorem test_decode_truncated : decode [0xA9] = .error .truncated ∧ decode [0xAD, 0x00] = .error .truncated ∧
    decode [] = .error .truncated := ⟨rfl, rfl, rfl⟩

theorem test_table_word : decodeTableWord 8 0xA9 = some (.ldaImm 0x00) ∧
    decodeTableWord 24 0x1234AD = some (.ldaAbs 0x1234) ∧ decodeTableWord 8 0x02 = none := ⟨rfl, rfl, rfl⟩

/-! ### One instruction (95_test_vectors.md, L1.1 and L2.1 to L2.7) -/

/-- The start of a single-instruction vector: the state after a song start, with S = 0xFF (Conventions). -/
def start : State :=
  { State.reset with sp := 0xFF }

/-- The state after ExecuteOne of the instruction whose bytes are placed at PC, if it completes. -/
def after (b0 b1 b2 : Byte) (s : State) : Option State :=
  match (s.placeInstr (b0, b1, b2)).executeOne with
  | .next t => some t
  | _ => none

/-- The fault that ExecuteOne of the placed instruction ends in, with the stopped state. -/
def faultAfter (b0 b1 b2 : Byte) (s : State) : Option (CoreFault × State) :=
  match (s.placeInstr (b0, b1, b2)).executeOne with
  | .fault (.core f t) => some (f, t)
  | _ => none

/-- What a test of a write to A, X or Y looks at: the registers, N, Z and the cost. -/
structure Look where
  a : Byte
  x : Byte
  y : Byte
  n : Bool
  z : Bool
  cost : Nat
  deriving DecidableEq, Repr

/-- A, X, Y, N, Z and the cost after an instruction. -/
def look (t : State) : Look :=
  ⟨t.a, t.x, t.y, t.flags.n, t.flags.z, t.cost⟩

-- loads: L2.1, and the page crossings of L1.1
theorem test_lda_zero : ((after 0xA9 0x00 0 start).map fun t => (look t, t.pc)) =
    some (⟨0, 0, 0, false, true, 2⟩, 0x8002) := by decide +kernel

theorem test_lda_alias : ((after 0xAD 0x00 0x20 { start with ram := [(0x000, 0x3C)] }).map look) =
    some ⟨0x3C, 0, 0, false, false, 4⟩ := by decide +kernel

theorem test_ldx_zpy_wraps : ((after 0xB6 0xF0 0 { start with y := 0x20, ram := [(0x10, 0x05)] }).map look) =
    some ⟨0, 0x05, 0x20, false, false, 4⟩ := by decide +kernel

theorem test_ldy_absx_crosses : ((after 0xBC 0xF0 0x02 { start with x := 0x20, ram := [(0x310, 0x01)] }).map look) =
    some ⟨0, 0x20, 0x01, false, false, 5⟩ := by decide +kernel

theorem test_lda_absx_cost : ((after 0xBD 0x00 0x02 { start with x := 1 }).map State.cost) = some 4 ∧
    ((after 0xBD 0xF0 0xFF { start with x := 0x20 }).map State.cost) = some 5 := by decide +kernel

theorem test_lda_indirect : ((after 0xA1 0xFE 0 { start with
      x := 1, ram := [(0x00, 0x02), (0xFF, 0x34), (0x234, 0x77)] }).map look) = some ⟨0x77, 1, 0, false, false, 6⟩ ∧
    ((after 0xB1 0xFF 0 { start with y := 0x10, ram := [(0x00, 0x01), (0xFF, 0xF8), (0x208, 0x80)] }).map look) =
      some ⟨0x80, 0, 0x10, true, false, 6⟩ := by decide +kernel

-- stores: L2.1 and L1.1
theorem test_sta_absx : ((after 0x9D 0xFF 0x02 { start with a := 0x5A, x := 1 }).map fun t =>
      (t.ram, t.flags, t.cost)) = some ([(0x1FE, 0xFF), (0x1FF, 0x4F), (0x300, 0x5A)], Flags.reset, 5) := by
  decide +kernel

theorem test_sta_ignored : ((after 0x8D 0x00 0x20 { start with a := 0x5A }).map fun t => (t.ram, t.select, t.apu)) =
    some (start.ram, start.select, start.apu) := by decide +kernel

theorem test_sta_apu : ((after 0x8D 0x00 0x40 { start with a := 0x3F }).map fun t =>
      (t.apu.pulse1.duty, t.apu.pulse1.env.halt, t.apu.pulse1.env.constVol, t.apu.pulse1.env.vol)) =
    some (0, true, true, 15) := by decide +kernel

theorem test_stx_zpy_wraps : ((after 0x96 0x10 0 { start with x := 0x33, y := 0xF1, ram := [] }).map State.ram) =
    some [(0x01, 0x33)] := by decide +kernel

theorem test_sty_abs : ((after 0x8C 0x00 0x02 { start with y := 0x44, ram := [] }).map State.ram) =
    some [(0x200, 0x44)] := by decide +kernel

-- transfers: L2.1
theorem test_tax : ((after 0xAA 0 0 start).map look) = some ⟨0, 0, 0, false, true, 2⟩ := by decide +kernel

theorem test_tay : ((after 0xA8 0 0 { start with a := 0x80 }).map look) = some ⟨0x80, 0, 0x80, true, false, 2⟩ := by
  decide +kernel

theorem test_txa : ((after 0x8A 0 0 { start with x := 0x7F }).map look) = some ⟨0x7F, 0x7F, 0, false, false, 2⟩ := by
  decide +kernel

theorem test_tya : ((after 0x98 0 0 { start with y := 0xFF }).map look) = some ⟨0xFF, 0, 0xFF, true, false, 2⟩ := by
  decide +kernel

theorem test_tsx : ((after 0xBA 0 0 { start with sp := 0x80 }).map look) = some ⟨0, 0x80, 0, true, false, 2⟩ := by
  decide +kernel

theorem test_txs : ((after 0x9A 0 0 start).map fun t => (t.sp, t.flags)) = some (0, Flags.reset) := by decide +kernel

-- the stack: L2.2
theorem test_pha_wraps : ((after 0x48 0 0 { start with a := 0x11, sp := 0x00, ram := [] }).map fun t =>
      (t.ram, t.sp, t.cost)) = some ([(0x100, 0x11)], 0xFF, 3) := by decide +kernel

theorem test_php : ((after 0x08 0 0 { start with ram := [] }).map fun t => (t.ram, t.sp, t.cost)) =
    some ([(0x1FF, 0x34)], 0xFE, 3) := by decide +kernel

theorem test_pla_wraps : ((after 0x68 0 0 { start with ram := [(0x100, 0x80)] }).map fun t => (t.a, t.flags.n, t.sp)) =
    some (0x80, true, 0x00) := by decide +kernel

theorem test_plp : ((after 0x28 0 0 { start with sp := 0xFE, ram := [(0x1FF, 0xFF)] }).map fun t => (t.flags, t.sp)) =
    some (⟨true, true, true, true, true, true, true⟩, 0xFF) := by decide +kernel

theorem test_plp_zero : ((after 0x28 0 0 { start with sp := 0xFE, ram := [] }).map fun t => (t.flags, t.flags.u)) =
    some (⟨false, false, false, false, false, false, false⟩, true) := by decide +kernel

-- arithmetic and logic: L2.3
/-- A, N, Z, C and V after an instruction. -/
def arith (t : State) : Byte × Bool × Bool × Bool × Bool :=
  (t.a, t.flags.n, t.flags.z, t.flags.c, t.flags.v)

/-- The start state with V computed by the textbook formula. -/
def textbook : State :=
  { start with cfg := { Config.default with vMode := .textbook } }

/-- The flags after a song start, with C set. -/
def carrySet : Flags :=
  { Flags.reset with c := true }

theorem test_adc_v : ((after 0x69 0x50 0 { start with a := 0x50 }).map arith) = some (0xA0, true, false, false, false) ∧
    ((after 0x69 0x50 0 { textbook with a := 0x50 }).map arith) = some (0xA0, true, false, false, true) := by
  decide +kernel

theorem test_adc_carry : ((after 0x69 0x01 0 { start with a := 0xFF }).map arith) = some (0, false, true, true, true) ∧
    ((after 0x69 0x00 0 { start with flags := carrySet }).map arith) = some (0x01, false, false, false, true) := by
  decide +kernel

theorem test_sbc_borrow : ((after 0xE9 0x01 0 { start with flags := carrySet }).map arith) =
      some (0xFF, true, false, false, false) ∧
    ((after 0xE9 0x00 0 start).map arith) = some (0xFF, true, false, false, false) := by decide +kernel

theorem test_sbc_v : ((after 0xE9 0x80 0 { textbook with a := 0x7F, flags := carrySet }).map arith) =
      some (0xFF, true, false, false, true) ∧
    ((after 0xE9 0x01 0 { start with flags := carrySet, cfg := { Config.default with sbcVOperand := .notM } }).map
      arith) = some (0xFF, true, false, false, true) := by decide +kernel

theorem test_decimal_fault : (faultAfter 0x69 0x01 0 { start with
      pc := 0x8003, flags := { Flags.reset with d := true }, cfg := { Config.default with decimal := .fault } }).map
      (fun p => (p.1, p.2.a, p.2.pc)) = some (.decimalUnsupported 0x8003, 0, 0x8003) := by decide +kernel

theorem test_and : ((after 0x29 0x0F 0 { start with a := 0xF0 }).map look) = some ⟨0, 0, 0, false, true, 2⟩ := by
  decide +kernel

theorem test_ora : ((after 0x09 0x80 0 { start with a := 0x01 }).map look) = some ⟨0x81, 0, 0, true, false, 2⟩ := by
  decide +kernel

theorem test_eor_indy : ((after 0x51 0x10 0 { start with
      a := 0x0F, y := 0xFF, ram := [(0x10, 0x01), (0x11, 0x03), (0x400, 0xFF)] }).map look) =
    some ⟨0xF0, 0, 0xFF, true, false, 6⟩ := by decide +kernel

theorem test_cmp : ((after 0xC9 0x40 0 { start with a := 0x40 }).map arith) = some (0x40, false, true, true, false) ∧
    ((after 0xC9 0x41 0 { start with a := 0x40 }).map arith) = some (0x40, true, false, false, false) := by
  decide +kernel

theorem test_cpx : ((after 0xE0 0x10 0 { start with x := 0x90 }).map arith) = some (0, true, false, true, false) := by
  decide +kernel

theorem test_cpy : ((after 0xC0 0xFF 0 start).map arith) = some (0, false, false, false, false) := by decide +kernel

theorem test_bit : ((after 0x24 0x10 0 { start with a := 0x01, ram := [(0x10, 0xC0)] }).map arith) =
    some (0x01, true, true, false, true) := by decide +kernel

-- increments, shifts and rotates: L2.4
/-- RAM, N, Z, C and the cost after an instruction. -/
def modified (t : State) : Memory × Bool × Bool × Bool × Nat :=
  (t.ram, t.flags.n, t.flags.z, t.flags.c, t.cost)

theorem test_inc : ((after 0xE6 0x10 0 { start with ram := [(0x10, 0xFF)] }).map modified) =
      some ([], false, true, false, 5) ∧
    ((after 0xFE 0xFF 0x02 { start with x := 1, ram := [(0x300, 0x7F)] }).map modified) =
      some ([(0x300, 0x80)], true, false, false, 7) := by decide +kernel

theorem test_inc_apu : ((after 0xEE 0x11 0x40 { start with ram := [(0x11, 0x05)] }).map fun t =>
      (t.apu.dmc.level, t.ram)) = some (3, [(0x11, 0x05)]) := by decide +kernel

theorem test_dec : ((after 0xC6 0x10 0 { start with ram := [] }).map modified) =
    some ([(0x10, 0xFF)], true, false, false, 5) := by decide +kernel

theorem test_inx : ((after 0xE8 0 0 { start with x := 0xFF }).map look) = some ⟨0, 0, 0, false, true, 2⟩ := by
  decide +kernel

theorem test_iny : ((after 0xC8 0 0 { start with y := 0x7F }).map look) = some ⟨0, 0, 0x80, true, false, 2⟩ := by
  decide +kernel

theorem test_dex : ((after 0xCA 0 0 { start with x := 0x01 }).map look) = some ⟨0, 0, 0, false, true, 2⟩ := by
  decide +kernel

theorem test_dey : ((after 0x88 0 0 start).map look) = some ⟨0, 0, 0xFF, true, false, 2⟩ := by decide +kernel

theorem test_asl_acc : ((after 0x0A 0 0 { start with a := 0x80 }).map arith) = some (0, false, true, true, false) := by
  decide +kernel

theorem test_asl_zpx : ((after 0x16 0x10 0 { start with x := 0xF5, ram := [(0x05, 0x41)] }).map modified) =
    some ([(0x05, 0x82)], true, false, false, 6) := by decide +kernel

theorem test_lsr_acc : ((after 0x4A 0 0 { start with a := 0x01 }).map arith) = some (0, false, true, true, false) := by
  decide +kernel

theorem test_lsr_zp : ((after 0x46 0x10 0 { start with ram := [(0x10, 0x80)] }).map modified) =
    some ([(0x10, 0x40)], false, false, false, 5) := by decide +kernel

theorem test_rol_acc : ((after 0x2A 0 0 { start with a := 0x80 }).map arith) = some (0, false, true, true, false) := by
  decide +kernel

theorem test_rol_zp : ((after 0x26 0x10 0 { start with flags := carrySet, ram := [(0x10, 0x80)] }).map modified) =
    some ([(0x10, 0x01)], false, false, true, 5) := by decide +kernel

theorem test_ror_acc : ((after 0x6A 0 0 { start with a := 0x01, flags := carrySet }).map arith) =
    some (0x80, true, false, true, false) := by decide +kernel

theorem test_ror_zp : ((after 0x66 0x10 0 { start with ram := [(0x10, 0x02)] }).map modified) =
    some ([(0x10, 0x01)], false, false, false, 5) := by decide +kernel

-- jumps, calls and returns: L2.5
/-- PC, S, the halted flag and the cost after an instruction. -/
def control (t : State) : Word × Byte × Bool × Nat :=
  (t.pc, t.sp, t.halted, t.cost)

theorem test_jmp_abs : ((after 0x4C 0x00 0x50 start).map control) = some (0x5000, 0xFF, false, 3) := by decide +kernel

theorem test_jmp_ind_wrap : ((after 0x6C 0xFF 0x02 { start with
      ram := [(0x200, 0xA0), (0x300, 0x90)] }).map control) = some (0x9000, 0xFF, false, 5) ∧
    ((after 0x6C 0xFF 0x02 { start with
      ram := [(0x200, 0xA0), (0x300, 0x90)], cfg := { Config.default with jmpIndWrap := .pageWrap } }).map control) =
      some (0xA000, 0xFF, false, 5) := by decide +kernel

theorem test_jsr : ((after 0x20 0x00 0x90 { start with ram := [] }).map fun t => (control t, t.ram)) =
    some ((0x9000, 0xFD, false, 6), [(0x1FE, 0x02), (0x1FF, 0x80)]) := by decide +kernel

theorem test_rts : ((after 0x60 0 0 { start with sp := 0xFD, ram := [(0x1FE, 0x02), (0x1FF, 0x80)] }).map control) =
    some (0x8003, 0xFF, false, 6) := by decide +kernel

theorem test_rts_sentinel : ((after 0x60 0 0 State.reset).map control) = some (0x5000, 0xFF, true, 6) := by
  decide +kernel

theorem test_rti : ((after 0x40 0 0 { start with sp := 0xFA, ram := [(0x1FB, 0x24), (0x1FD, 0x90)] }).map fun t =>
      (control t, t.flags)) = some ((0x9000, 0xFD, false, 6), Flags.reset) := by decide +kernel

theorem test_brk_fault : (faultAfter 0x00 0 0 start).map (fun p => (p.1, p.2.pc, p.2.ram)) =
    some (.unsupportedOpcode 0x8000 0x00, 0x8000, start.ram) := by decide +kernel

/-- A core with P_BRK = Standard whose image holds 0x9000 at 0xFFFE. -/
def brkState : State :=
  { State.reset with
    ram := []
    cfg := { Config.default with brk := .standard }
    image := some { Image.blank with pageCount := 8, rom := [(0x7FFF, 0x90)] } }

theorem test_brk_standard : ((after 0x00 0 0 brkState).map fun t => (control t, t.ram, t.flags)) =
    some ((0x9000, 0xFA, false, 7), [(0x1FB, 0x34), (0x1FC, 0x02), (0x1FD, 0x80)],
      { Flags.reset with b := true }) := by decide +kernel

-- branches: L2.6
/-- PC and the cost of a branch with offset `r` at `pc`. -/
def branchAt (op r : Byte) (pc : Word) (f : Flags) : Option (Word × Nat) :=
  (after op r 0 { start with pc := pc, flags := f }).map fun t => (t.pc, t.cost)

theorem test_bne : branchAt 0xD0 0x10 0x8000 Flags.reset = some (0x8012, 3) ∧
    branchAt 0xD0 0x10 0x8000 { Flags.reset with z := true } = some (0x8002, 2) := by decide +kernel

theorem test_beq_back : branchAt 0xF0 0xFD 0x8000 { Flags.reset with z := true } = some (0x7FFF, 4) := by
  decide +kernel

theorem test_bcc_cross : branchAt 0x90 0x7F 0x8080 Flags.reset = some (0x8101, 4) := by decide +kernel

theorem test_bcs : branchAt 0xB0 0x02 0x8000 carrySet = some (0x8004, 3) := by decide +kernel

theorem test_bmi : branchAt 0x30 0x00 0x80FD { Flags.reset with n := true } = some (0x80FF, 3) := by decide +kernel

theorem test_bpl : branchAt 0x10 0x02 0x8000 Flags.reset = some (0x8004, 3) := by decide +kernel

theorem test_bvc : branchAt 0x50 0x02 0x8000 Flags.reset = some (0x8004, 3) := by decide +kernel

theorem test_bvs : branchAt 0x70 0x02 0x8000 Flags.reset = some (0x8002, 2) ∧
    branchAt 0x70 0x02 0x8000 { Flags.reset with v := true } = some (0x8004, 3) := by decide +kernel

-- flag instructions: L2.7
/-- The flags after an instruction of one byte. -/
def flagsAfter (op : Byte) (f : Flags) : Option Flags :=
  (after op 0 0 { start with flags := f }).map State.flags

/-- Every flag set. -/
def allSet : Flags :=
  ⟨true, true, true, true, true, true, true⟩

/-- Every flag clear. -/
def allClear : Flags :=
  ⟨false, false, false, false, false, false, false⟩

theorem test_clear_flags : flagsAfter 0x18 allSet = some { allSet with c := false } ∧
    flagsAfter 0x58 allSet = some { allSet with i := false } ∧ flagsAfter 0xD8 allSet = some { allSet with d := false } ∧
    flagsAfter 0xB8 allSet = some { allSet with v := false } := by decide +kernel

theorem test_set_flags : flagsAfter 0x38 allClear = some { allClear with c := true } ∧
    flagsAfter 0x78 allClear = some { allClear with i := true } ∧
    flagsAfter 0xF8 allClear = some { allClear with d := true } := by decide +kernel

theorem test_nop : ((after 0xEA 0 0 start).map fun t => (look t, t.pc, t.flags, t.ram)) =
    some (⟨0, 0, 0, false, false, 2⟩, 0x8001, Flags.reset, start.ram) := by decide +kernel

/-! ### Memory, the APU, the host (95_test_vectors.md, L1 and L2.8 to L2.13) -/

/-- A core whose image has two pages and whose window 0 shows page 9. -/
def beyond : State :=
  { start with select := start.select.set 0 9, image := some { Image.blank with pageCount := 2 } }

theorem test_bank_beyond : beyond.memRead 0x8000 = .ok 0 ∧
    { beyond with cfg := { Config.default with bankOor := .fault } }.memRead 0x8000 =
      .error (.bankOutOfRange 0x8000 9) := by decide +kernel

theorem test_unmapped_write : (faultAfter 0x8D 0x00 0x80 { start with
      pc := 0x8002, a := 0x77, cfg := { Config.default with unmappedWrite := .fault } }).map (fun p => (p.1, p.2.pc)) =
    some (.unmappedWrite 0x8000 0x77, 0x8002) := by decide +kernel

theorem test_bank_select : (match start.memWrite 0x5FF8 0x02 with
      | .ok t => some (t.select[0], t.ram)
      | .error _ => none) = some (2, start.ram) := by decide +kernel

theorem test_timer_high : (apuWrite Config.default 0x4003 0xFB
      { Apu.reset with pulse1 := { Pulse.reset with period := 0x0FF, step := 5 } }).pulse1 =
    { Pulse.reset with period := 0x3FF, length := 30, env := { Envelope.reset with start := true } } := by
  decide +kernel

theorem test_sweep_registers : (apuWrite Config.default 0x4001 0x89 Apu.reset).pulse1.sweep =
    { Sweep.reset with en := true, neg := true, shift := 1, reload := true } := by decide +kernel

/-- A pulse channel of period 0x100 whose sweep is enabled with shift 1. -/
def sweeping (neg : Bool) : Pulse :=
  { Pulse.reset with period := 0x100, sweep := { Sweep.reset with en := true, neg := neg, shift := 1, reload := true } }

theorem test_sweep_periods : ((sweeping true).sweepClock Config.default true).period = 0x07F ∧
    ((sweeping true).sweepClock Config.default false).period = 0x080 ∧
    ((sweeping false).sweepClock Config.default true).period = 0x180 := by decide +kernel

theorem test_sweep_mutes : let p := { sweeping false with period := 0xBFE }.sweepClock Config.default true
    p.sweep.mute = true ∧ p.period = 0xBFE := by decide +kernel

theorem test_envelope : let e : Envelope := { Envelope.reset with vol := 2, start := true }
    (e.clock.decay, e.clock.div) = (15, 2) ∧ (iterate Envelope.clock 4 e).decay = 14 := by decide +kernel

theorem test_linear_counter : let t : Triangle := { Triangle.reset with linReloadValue := 3, linReloadFlag := true }
    (t.linearClock.lin, t.linearClock.linReloadFlag) = (3, false) ∧ t.linearClock.linearClock.lin = 2 := by
  decide +kernel

theorem test_frame_reset : let p : Apu := { Apu.reset with seq := { FrameSeq.reset with acc := 7456 } }
    (p.advanceFrame Config.default 4).seq = ⟨.four, 1, 0⟩ ∧
    (p.advanceFrame { Config.default with fsReset := .carry } 4).seq = ⟨.four, 1, 2⟩ := by decide +kernel

theorem test_noise_shift : noiseShift false 1 = 0x4000 ∧ noiseShift false 0x4000 = 0x2000 := by decide +kernel

theorem test_pulse_clock : let p : Pulse := { Pulse.reset with period := 0x054 }
    ((p.clock Config.default).timer, (p.clock Config.default).step) = (169, 1) := by decide +kernel

theorem test_triangle_sequence : triangleSequence 0 = 15 ∧ triangleSequence 15 = 0 ∧ triangleSequence 16 = 0 ∧
    triangleSequence 31 = 15 := by decide +kernel

theorem test_dmc_bit : let d : Dmc := { Dmc.reset with level := 63, shift := 0x01, bitsLeft := 8 }
    d.outputBit.level = 63 ∧ { d with level := 0, shift := 0x00 }.outputBit.level = 0 ∧
    dmcNextAddr 0xFFFF = 0x8000 := by decide +kernel

theorem test_first_sample : State.reset.sample = 12765 / 100000 := by decide +kernel

/-- A file with a header of 0x80 bytes: the two addresses, one song, the overrides and the data. -/
def file (loadLo loadHi : Byte) (songs : Byte) (ov : List Byte) (exp : Byte) (data : List Byte) : List Byte :=
  [0x4E, 0x45, 0x53, 0x4D, 0x1A, 1, songs, 1, loadLo, loadHi, 0x00, 0x80, 0x0E, 0x80] ++ List.replicate 98 0 ++ ov ++
    [0, 0, 0, exp, 0, 0, 0, 0] ++ data

/-- No override. -/
def noOverrides : List Byte :=
  List.replicate 8 0

theorem test_load_pages : let im := imageOf (file 0x00 0x84 1 [0, 0, 0, 0, 0, 0, 0, 2] 0 [0xAB])
    im.rom = [(0x400, 0xAB)] ∧ im.pageCount = 1 ∧ defaultSelect im.overrides = #v[0, 1, 2, 3, 4, 5, 6, 2] := by
  decide +kernel

theorem test_load_window : let im := imageOf (file 0x00 0xC0 1 noOverrides 0 (List.replicate 16 1))
    im.pageCount = 5 ∧ im.rom.read 0x4000 = 1 := by decide +kernel

/-- The answer of a host operation. -/
def answer (op : HostOp) (s : State) : Reply :=
  (hostStep op s).1

theorem test_load_refused : answer (.load (file 0x00 0x70 1 noOverrides 0 [])) start = .refused .imageBelowWindows ∧
    answer (.load (file 0x00 0x80 0 noOverrides 0 [])) start = .refused .imageNoSongs ∧
    answer (.load (file 0x00 0x80 1 noOverrides 1 [])) start = .refused .imageExpansion ∧
    answer (.load magic) start = .refused .imageTooShort ∧ answer (.load [0x4E]) start = .formatError := by
  decide +kernel

theorem test_clamp : clampSong 0 3 = 1 ∧ clampSong 9 3 = 3 ∧ clampSong (-5) 3 = 1 := by decide +kernel

theorem test_silent : answer (.nextSample 44100) { start with playing := false } = .sample 0 ∧
    answer (.nextSample 0) start = .refused .rateNotPositiveInteger ∧
    answer (.nextSample (-44100)) start = .refused .rateNotPositiveInteger ∧
    answer (.nextSample (88201 / 2)) start = .refused .rateNotPositiveInteger := by decide +kernel

/-- Three steps of program L3.4: LDX #$FF, TXS, LDA #$07, then the opcode 0x02. -/
theorem test_program_fault : (match iterate (fun r => match r with
        | Host.Outcome.next s => step s
        | r => r) 4 (Host.Outcome.next { State.reset with
          image := some { Image.blank with
            rom := [(0, 0xA2), (1, 0xFF), (2, 0x9A), (3, 0xA9), (4, 0x07), (5, 0x02), (6, 0x60)] } }) with
      | .fault (.core f t) => some (f, t.a, t.x, t.sp, t.pc, t.frameClock)
      | _ => none) = some (.unsupportedOpcode 0x8005 0x02, 0x07, 0xFF, 0xFF, 0x8005, 6) := by decide +kernel

/-! ### Witnesses: for each statement with hypotheses, a state and operands that meet all of them -/

/-- Whether an outcome is a next state. -/
def isNext {α β γ : Type} : Host.Outcome α β γ → Bool
  | .next _ => true
  | _ => false

theorem exists_next {α β γ : Type} {r : Host.Outcome α β γ} (h : isNext r = true) : ∃ t, r = .next t := by
  cases r with
  | next t => exact ⟨t, rfl⟩
  | fault f => cases h
  | refused r => cases h

theorem exists_ok {α β : Type} {r : Except α β} (h : r.isOk = true) : ∃ t, r = .ok t := by
  cases r with
  | ok t => exact ⟨t, rfl⟩
  | error e => cases h

theorem witness_DecodeInvertsEncode : decode [0xAD, 0x00, 0x02, 0xEA] = .ok (.ldaAbs 0x0200, [0xEA]) := rfl

theorem witness_EveryByteDecodesOrIsUnsupported : Instr.operand .nop = .imp ∧ Instr.operand .aslAcc = .acc ∧
    (Instr.operand (.bne 0x80)).mode = .rel ∧ (Instr.operand (.jmpInd 0xFFFF)).mode = .ind := ⟨rfl, rfl, rfl, rfl⟩

/-- A core whose PC is at the last RAM address, so that the instruction runs on into window 0. -/
def edge : State :=
  { start with pc := 0x7FFF }

theorem witness_StepRunsTheDecodedInstruction :
    let s := edge.placeInstr (0xAD, 0x34, 0x12)
    s.started = true ∧ s.fault = none ∧ s.halted = false ∧ decode [0xAD, 0x34, 0x12] = .ok (.ldaAbs 0x1234, []) ∧
      s.memRead s.pc = .ok 0xAD ∧ s.memRead (s.pc + 1) = .ok 0x34 ∧ s.memRead (s.pc + 2) = .ok 0x12 := by
  decide +kernel

theorem witness_HaltedStepFetchesNothing : let s : State := { State.reset with halted := true }
    s.started = true ∧ s.fault = none ∧ s.halted = true := ⟨rfl, rfl, rfl⟩

theorem witness_UnsupportedOpcodeFaults : let s := start.placeInstr (0x02, 0, 0)
    s.started = true ∧ s.fault = none ∧ s.halted = false ∧ s.memRead s.pc = .ok 0x02 ∧
      (∀ r ∈ opcodeTable, r.opcode ≠ 0x02) ∧ start.memRead start.pc = .ok 0x00 ∧ start.cfg.brk = .fault := by
  decide +kernel

theorem witness_FaultedCoreIsStuck : let s : State := { State.reset with fault := some (.unsupportedOpcode 0x8005 0x02) }
    s.started = true ∧ s.fault = some (.unsupportedOpcode 0x8005 0x02) ∧ 0 < 44100 := by decide +kernel

theorem start_ram : RamCanonical start := ⟨⟨by decide, by decide⟩, by decide⟩

theorem start_image : ImageCanonical start := by
  intro im h
  have heq := Option.mem_some.1 h
  subst heq
  exact ⟨⟨by decide, by decide⟩, by decide⟩

theorem witness_PlacedInstructionIsFetched : start.cfg.wellFormed = true ∧ RamCanonical start ∧ ImageCanonical start ∧
    decodeTableWord 8 0xE8 = some .inx ∧ decodeTableWord 24 0xFFFF8D = some (.staAbs 0xFFFF) :=
  ⟨test_default_wellFormed, start_ram, start_image, rfl, rfl⟩

theorem witness_EveryInstructionCompletes : (start.cfg.bankOor = .zero ∧ start.cfg.unmappedWrite = .ignore ∧
      start.cfg.decimal = .binary ∧ Instr.wellFormed start.cfg (.adcIndy 0xFF) = true) ∧
    brkState.cfg.bankOor = .zero ∧ brkState.cfg.unmappedWrite = .ignore ∧ brkState.cfg.decimal = .binary ∧
      Instr.wellFormed brkState.cfg .brk = true := by decide +kernel

/-- `beyond` on a core that faults on a page beyond the image and on an unmapped write. -/
def strict : State :=
  { beyond with cfg := { Config.default with bankOor := .fault, unmappedWrite := .fault } }

theorem witness_LoadsSetRegisterAndNZ : start.readOperand (Instr.operand (.ldaImm 0x80)) = .ok 0x80 ∧
    start.readOperand (Instr.operand (.ldxZpy 0xFF)) = .ok 0x00 ∧
    start.readOperand (Instr.operand (.ldyAbsx 0xFFFF)) = .ok 0x00 ∧ Instr.mnemonic (.ldaImm 0x80) = .lda ∧
    Instr.mnemonic (.ldxZpy 0xFF) = .ldx ∧ Instr.mnemonic (.ldyAbsx 0xFFFF) = .ldy ∧
    strict.readOperand (.abs 0x8000) = .error (.bankOutOfRange 0x8000 9) ∧ Instr.mnemonic (.ldaAbs 0x8000) = .lda ∧
    Instr.mnemonic (.ldxAbs 0x8000) = .ldx ∧ Instr.mnemonic (.ldyAbs 0x8000) = .ldy := by decide +kernel

theorem witness_StoresWriteTheirRegister : Instr.mnemonic (.staIndy 0xFF) = .sta ∧
    Instr.mnemonic (.stxZpy 0x10) = .stx ∧ Instr.mnemonic (.styAbs 0x4015) = .sty ∧
    (start.resolve (.indy 0xFF)).loc = .mem 0x0000 ∧ (start.resolve (.zpy 0x10)).loc = .mem 0x0010 ∧
    (start.resolve (.abs 0x4015)).loc = .mem 0x4015 ∧ (start.memWrite 0x0000 0).isOk = true ∧
    (start.memWrite 0x0010 0).isOk = true ∧ (start.memWrite 0x4015 0).isOk = true ∧
    (strict.resolve (.abs 0x2000)).loc = .mem 0x2000 ∧ (strict.memWrite 0x2000 strict.a).isOk = false := by
  decide +kernel

/-- A core that faults on decimal mode. -/
def decimalState : State :=
  { start with flags := { Flags.reset with d := true }, cfg := { Config.default with decimal := .fault } }

theorem witness_AddAndSubtractResults : (start.cfg.decimal = .fault → start.flags.d = false) ∧
    start.readOperand (.imm 0xFF) = .ok 0xFF ∧ Instr.mnemonic (.adcImm 0xFF) = .adc ∧
    Instr.mnemonic (.sbcImm 0xFF) = .sbc ∧ decimalState.cfg.decimal = .fault ∧ decimalState.flags.d = true ∧
    (strict.cfg.decimal = .fault → strict.flags.d = false) ∧ Instr.mnemonic (.adcAbs 0x8000) = .adc ∧
    strict.readOperand (.abs 0x8000) = .error (.bankOutOfRange 0x8000 9) := by decide +kernel

theorem witness_LogicResults : start.readOperand (.imm 0x0F) = .ok 0x0F ∧ Instr.mnemonic (.andImm 0x0F) = .and ∧
    Instr.mnemonic (.oraImm 0x0F) = .ora ∧ Instr.mnemonic (.eorImm 0x0F) = .eor ∧
    strict.readOperand (.abs 0x8000) = .error (.bankOutOfRange 0x8000 9) ∧ Instr.mnemonic (.andAbs 0x8000) = .and := by
  decide +kernel

theorem witness_CompareAndBitFlags : start.readOperand (.zp 0xFF) = .ok 0x00 ∧ Instr.mnemonic (.cmpZp 0xFF) = .cmp ∧
    Instr.mnemonic (.cpxZp 0xFF) = .cpx ∧ Instr.mnemonic (.cpyZp 0xFF) = .cpy ∧
    Instr.mnemonic (.bitZp 0xFF) = .bit ∧ Instr.mnemonic (.cmpAbs 0x8000) = .cmp ∧
    strict.readOperand (.abs 0x8000) = .error (.bankOutOfRange 0x8000 9) := by decide +kernel

theorem witness_IncrementsAndDecrements : Instr.mnemonic (.incAbsx 0x4011) = .inc ∧
    Instr.mnemonic (.decAbsx 0x4011) = .dec ∧ (start.resolve (.absx 0x4011)).loc = .mem 0x4011 ∧
    start.memRead 0x4011 = .ok 0x00 ∧ (start.memWrite 0x4011 0x01).isOk = true ∧
    (start.memWrite 0x4011 0xFF).isOk = true ∧ (strict.resolve (.abs 0x8000)).loc = .mem 0x8000 ∧
    strict.memRead 0x8000 = .error (.bankOutOfRange 0x8000 9) ∧ (strict.resolve (.abs 0x2000)).loc = .mem 0x2000 ∧
    strict.memRead 0x2000 = .ok 0x00 ∧ (strict.memWrite 0x2000 0x01).isOk = false ∧
    Instr.mnemonic (.incAbs 0x8000) = .inc ∧ Instr.mnemonic (.decAbs 0x2000) = .dec := by decide +kernel

theorem witness_ShiftsAndRotates : start.readOperand (Instr.operand .aslAcc) = .ok 0x00 ∧
    (start.writeLoc (start.resolve (Instr.operand .aslAcc)).loc 0x00).isOk = true ∧
    start.readOperand (.zpx 0xFF) = .ok 0x00 ∧
    (start.writeLoc (start.resolve (.zpx 0xFF)).loc 0x00).isOk = true ∧ Instr.mnemonic .aslAcc = .asl ∧
    Instr.mnemonic (.lsrZpx 0xFF) = .lsr ∧ Instr.mnemonic (.rolZpx 0xFF) = .rol ∧
    Instr.mnemonic (.rorZpx 0xFF) = .ror ∧ strict.readOperand (.abs 0x8000) = .error (.bankOutOfRange 0x8000 9) ∧
    strict.readOperand (.abs 0x2000) = .ok 0x00 ∧ (strict.writeLoc (strict.resolve (.abs 0x2000)).loc 0).isOk = false ∧
    Instr.mnemonic (.aslAbs 0x2000) = .asl := by decide +kernel

theorem witness_JumpsAndCalls : start.memRead 0x7FFF = .ok 0x00 ∧ start.memRead (0x7FFF + 1) = .ok 0x00 ∧
    strict.cfg.jmpIndWrap = .linear ∧ strict.memRead 0x8000 = .error (.bankOutOfRange 0x8000 9) ∧
    strict.memRead 0x7FFF = .ok 0x00 ∧ strict.memRead (0x7FFF + 1) = .error (.bankOutOfRange 0x8000 9) := by
  decide +kernel

/-- `strict` with the break instruction, and window 7 beyond the image. -/
def strictBreak : State :=
  { strict with cfg := { strict.cfg with brk := .standard }, select := strict.select.set 7 9 }

theorem witness_BreakFaultsOrTraps : start.cfg.brk = .fault ∧ brkState.cfg.brk = .standard ∧
    brkState.memRead 0xFFFE = .ok 0x00 ∧ brkState.memRead 0xFFFF = .ok 0x90 ∧ strictBreak.cfg.brk = .standard ∧
    strictBreak.memRead 0xFFFE = .error (.bankOutOfRange 0xFFFE 9) := by decide +kernel

theorem witness_CostIsTheTabledCost : ∃ t, exec (.ldaAbsx 0x02FF) { start with x := 1 } = .next t ∧
    (Instr.operand (.ldaAbsx 0x02FF)).mode ≠ .rel :=
  ⟨_, rfl, by decide⟩

theorem witness_OnlyListedInstructionsWriteRegisters : ∃ t, exec .rorAcc { start with a := 1 } = .next t :=
  exists_next (by decide +kernel)

theorem witness_OnlyListedInstructionsWriteFlags : ∃ t, exec .rts State.reset = .next t := exists_next (by decide +kernel)

theorem witness_OnlyStoresChangeMemory : (∃ t, exec .aslAcc start = .next t) ∧ Instr.operand .aslAcc = .acc ∧
    ∃ t, exec (.ldaAbs 0x4015) start = .next t :=
  ⟨exists_next (by decide +kernel), rfl, exists_next (by decide +kernel)⟩

theorem witness_StoreFrameByByte : start.ram.wf ∧ (start.resolve (.abs 0x1FFF)).loc = .mem 0x1FFF ∧
    (start.resolve (.abs 0x5FFF)).loc = .mem 0x5FFF ∧ (∃ t, exec (.staAbs 0x1FFF) start = .next t) ∧
    (∃ t, exec (.stxAbs 0x1FFF) start = .next t) ∧ (∃ t, exec (.styAbs 0x1FFF) start = .next t) ∧
    (∃ t, exec (.incAbs 0x5FFF) start = .next t) ∧ aliases start 0x1FFF 0x07FF ∧ mayChange start 0x5FFF 0xF000 ∧
    ¬ mayChange start 0x5FFF 0x8000 :=
  ⟨start_ram.1, by decide +kernel, by decide +kernel, exists_next (by decide +kernel), exists_next (by decide +kernel),
    exists_next (by decide +kernel), exists_next (by decide +kernel), ⟨by decide, by decide +kernel⟩,
    .inr ⟨by decide, by decide +kernel, by decide, by decide +kernel⟩, fun h => by
      rcases h with ⟨h, -⟩ | ⟨-, -, -, h⟩
      · revert h; decide
      · revert h; decide +kernel⟩

theorem witness_PushFrameByByte : Instr.mnemonic .pha = .pha ∧ (∃ t, exec .pha { start with sp := 0 } = .next t) ∧
    Instr.mnemonic (.jsr 0) = .jsr ∧ (∃ t, exec (.jsr 0) { start with sp := 0 } = .next t) ∧
    Instr.mnemonic .brk = .brk ∧ (∃ t, exec .brk { brkState with sp := 1 } = .next t) ∧
    ¬ aliases start (0x0100 + (start.sp - BitVec.ofNat 8 0).setWidth 16) 0x0200 :=
  ⟨rfl, exists_next (by decide +kernel), rfl, exists_next (by decide +kernel), rfl, exists_next (by decide +kernel),
    fun h => by have := h.2; revert this; decide +kernel⟩

theorem witness_OperandFaultsArePrecise : strict.readOperand (.abs 0x8000) = .error (.bankOutOfRange 0x8000 9) ∧
    Instr.mnemonic (.rolAbs 0x8000) = .rol ∧ Instr.mnemonic (.adcAbs 0x8000) = .adc ∧ strict.cfg.decimal = .binary ∧
    strict.cfg.unmappedWrite = .fault ∧
    [(0x2000 : Word), 0x3FFF, 0x4016, 0x4018, 0x5FF7, 0x6000, 0xFFFF].all (fun ea =>
      decide ((strict.resolve (.abs ea)).loc = .mem ea ∧ 0x2000 ≤ ea ∧ ¬ (0x4000 ≤ ea ∧ ea ≤ 0x4015) ∧ ea ≠ 0x4017 ∧
        ¬ (strict.cfg.bankBase ≤ ea.toNat ∧ ea.toNat ≤ strict.cfg.bankBase + 7))) = true := by decide +kernel

theorem witness_ReadDecode : (∃ im, beyond.image = some im ∧ im.pageCount = 2) ∧ (0x7FFF : Word) < 0x8000 ∧
    (0x8000 : Word) ≤ 0x8000 ∧ (0x8000 : Word) ≤ 0xFFFF ∧ (2 ≤ beyond.select[0] ∧ beyond.select[1] < 2) ∧
    beyond.cfg.bankOor = .zero ∧ strict.cfg.bankOor = .fault :=
  ⟨⟨_, rfl, rfl⟩, by decide, by decide, by decide, by decide +kernel, rfl, rfl⟩

theorem witness_WriteDecode : start.cfg.wellFormed = true ∧ (0x1FFF : Word) < 0x2000 ∧
    (0x4000 : Word) ≤ 0x4000 ∧ (0x4015 : Word) ≤ 0x4015 ∧ (0x5FF8 : Word).toNat = start.cfg.bankBase + 0 ∧
    (0x5FFF : Word).toNat = start.cfg.bankBase + 7 ∧ start.cfg.unmappedWrite = .ignore ∧
    strict.cfg.unmappedWrite = .fault ∧ strict.cfg.wellFormed = true ∧
    [(0x2000 : Word), 0x3FFF, 0x4016, 0x4018, 0x5FF7, 0x6000, 0xFFFF].all (fun a =>
      decide (0x2000 ≤ a ∧ ¬ (0x4000 ≤ a ∧ a ≤ 0x4015) ∧ a ≠ 0x4017 ∧
        ¬ (start.cfg.bankBase ≤ a.toNat ∧ a.toNat ≤ start.cfg.bankBase + 7))) = true := by decide +kernel

theorem witness_ReadAfterWrite : start.ram.wf ∧ (∃ t, start.memWrite 0x1FFF 0x55 = .ok t) ∧
    aliases start 0x1FFF 0x7FFF ∧ ¬ aliases start 0x1FFF 0x7FFE ∧ ∃ t, start.memWrite 0x2000 0x55 = .ok t :=
  ⟨start_ram.1, exists_ok (by decide +kernel), ⟨by decide, by decide +kernel⟩,
    fun h => by have := h.2; revert this; decide +kernel, exists_ok (by decide +kernel)⟩

theorem witness_BankSelectChangesItsWindow : beyond.cfg.wellFormed = true ∧
    (∃ im, beyond.image = some im ∧ (0x01 : Byte).toNat < im.pageCount) ∧
    (0x5FF8 : Word).toNat = beyond.cfg.bankBase + 0 ∧ (0x5FFF : Word).toNat = beyond.cfg.bankBase + 7 ∧
    (∃ t, beyond.memWrite 0x5FF8 0x01 = .ok t) ∧ (∃ t, beyond.memWrite 0x5FFF 0x01 = .ok t) ∧
    ((0x8000 : Word).toNat / 0x1000) % 8 = 0 ∧ ((0xFFFF : Word).toNat / 0x1000) % 8 = 7 :=
  ⟨test_default_wellFormed, ⟨_, rfl, by decide⟩, by decide, by decide, exists_ok (by decide +kernel),
    exists_ok (by decide +kernel), by decide, by decide⟩

theorem witness_StoredBreakFlagIsInert : (∃ t, exec .php start = .next t) ∧ ∃ t, exec .plp start = .next t :=
  ⟨exists_next (by decide +kernel), exists_next (by decide +kernel)⟩

/-- The answer is the fault `f` of the core. -/
def faultsWith (f : CoreFault) : Result → Bool
  | .fault (.core g _) => g == f
  | _ => false

theorem exists_fault {r : Result} {f : CoreFault} (h : faultsWith f r = true) : ∃ t, r = .fault (.core f t) := by
  unfold faultsWith at h
  split at h
  · rename_i g t
    exact ⟨t, by rw [eq_of_beq h]⟩
  · exact absurd h (by decide)

theorem witness_DefaultFaultIsUnsupportedOpcode : let s := start.placeInstr (0x02, 0, 0)
    s.fault = none ∧ s.cfg.bankOor = .zero ∧ s.cfg.unmappedWrite = .ignore ∧ s.cfg.decimal = .binary ∧
      ∃ t, step s = .fault (.core (.unsupportedOpcode 0x8000 0x02) t) :=
  ⟨rfl, rfl, rfl, rfl, exists_fault (by decide +kernel)⟩

theorem witness_PlayDriverCallsAtTheBoundary : start.image = some Image.blank ∧
    (let s : State := { start with frameClock := 29829 }
     s.frameClock + s.cost < s.cfg.playPeriod) ∧
    (let s : State := { start with frameClock := 29830 }
     s.cfg.playPeriod ≤ s.frameClock + s.cost ∧ s.halted = false) ∧
    (let s : State := { start with frameClock := 29830, halted := true }
     s.cfg.playPeriod ≤ s.frameClock + s.cost ∧ s.halted = true) := by
  refine ⟨rfl, ?_, ?_, ?_⟩ <;> decide +kernel

theorem witness_StepKeepsTheLaunch : start.cfg.wellFormed = true ∧
    ∃ t, step (start.placeInstr (0xEA, 0, 0)) = .next t :=
  ⟨test_default_wellFormed, exists_next (by decide +kernel)⟩

theorem witness_ChannelEnableWrites : (0x10 : Byte).getLsbD 4 = true ∧ (0xEF : Byte).getLsbD 4 = false ∧
    Dmc.reset.bytesRemaining = 0 ∧ 0 < { Dmc.reset with bytesRemaining := 1 }.bytesRemaining := by decide

theorem witness_FrameStepFiresOnce : Config.default.fsReset = .zero ∧
    0 + 7457 ≤ threshold Config.default .four 0 ∧ threshold Config.default .four 0 < 1 + 7457 ∧
    threshold Config.default .five 4 < 0 + 7453 := by decide +kernel

theorem witness_CarryMakesClocksAdditive : { Config.default with fsReset := .carry }.fsReset = .carry ∧
    SeqInRange { Config.default with fsReset := .carry } ⟨.five, 4, 7452⟩ :=
  ⟨rfl, by decide, by decide +kernel⟩

theorem witness_SweepStaysInRange : Config.default.wellFormed = true ∧
    (sweeping false).sweepUpdates Config.default true = true ∧
    { sweeping false with period := 0xAAA }.sweepOverflows Config.default true = false ∧
    { sweeping false with period := 0xAAB }.sweepOverflows Config.default true = true ∧
    { sweeping true with period := 7 }.sweepUpdates Config.default true = false := by decide +kernel

/-- Channels with an expired timer and a period. -/
def expiredPulse (k : BitVec 12) : Pulse := { Pulse.reset with period := k }

def expiredTriangle : Triangle := { Triangle.reset with period := 2, length := 1, lin := 1 }

theorem witness_ChannelsStepOncePerPeriod :
    ((expiredPulse 8).timer = 0 ∧ Config.default.pulseMinPeriod ≤ (expiredPulse 8).period.toNat) ∧
    (expiredTriangle.timer = 0 ∧ Config.default.triMinPeriod ≤ expiredTriangle.period.toNat ∧
      0 < expiredTriangle.length ∧ 0 < expiredTriangle.lin) ∧
    (Noise.reset.timer = 0 ∧ Config.default.noisePeriod[Noise.reset.periodIndex.toNat]? = some (3 + 1)) ∧
    (expiredPulse 7).period.toNat < Config.default.pulseMinPeriod ∧
    { expiredTriangle with period := 1 }.period.toNat < Config.default.triMinPeriod ∧
    { expiredTriangle with length := 0 }.length = 0 ∧ { expiredTriangle with lin := 0 }.lin = 0 := by decide +kernel

/-- A DMC with `n` bytes left to fetch from `a` on. -/
def fetching (n : Nat) (a : Word) : Dmc :=
  { Dmc.reset with bytesRemaining := n, curAddr := a }

theorem witness_TickClocksEveryChannel : (∃ u, dmcClocks 8 start = .next u) ∧ start.cfg.bankOor = .zero ∧
    (let u := strict.withDmc (fetching 1 0x8000)
     dmcClocks 0 u = .next u ∧ ∃ v, u.dmcClock = .fault (.core (.bankOutOfRange 0x8000 9) v)) ∧
    (let s := strict.withDmc { fetching 1 0x8000 with timer := 1 }
     dmcClocks 1 s = .next (strict.withDmc (fetching 1 0x8000))) :=
  ⟨exists_next (by decide +kernel), rfl, ⟨rfl, exists_fault (by decide +kernel)⟩, rfl⟩

theorem witness_DmcFetchesAndPlays : 0 < { Dmc.reset with timer := 1 }.timer ∧ Dmc.reset.timer = 0 ∧
    Dmc.reset.bitsLeft = 0 ∧ Dmc.reset.bytesRemaining = 0 ∧ 0 < { Dmc.reset with bitsLeft := 1 }.bitsLeft ∧
    0 < (fetching 1 0xFFFF).bytesRemaining ∧ (fetching 1 0xFFFF).loop = false ∧
    { fetching 1 0xFFFF with loop := true }.loop = true ∧ (fetching 1 0xFFFF).timer = 0 ∧
    (fetching 1 0xFFFF).bitsLeft = 0 ∧ start.memRead (fetching 1 0xFFFF).curAddr = .ok 0x00 ∧
    strict.memRead (fetching 1 0x8000).curAddr = .error (.bankOutOfRange 0x8000 9) := by decide +kernel

/-- The start state meets the invariant. -/
theorem start_inv : start.Inv where
  configured := test_default_wellFormed
  ram := start_ram
  image := start_image
  apu := ⟨⟨by decide, by decide, by decide⟩, ⟨by decide, by decide, by decide⟩, by decide,
    ⟨by decide, by decide, 0, by decide +kernel⟩,
    ⟨by decide, by decide, by decide, ⟨0, by decide +kernel⟩, by decide⟩, by decide, by decide +kernel⟩

theorem witness_SampleMixesTheAmplitudes : start.expansionMask = 0 := by decide

theorem witness_SampleIsBounded : start.Inv ∧ start.expansionMask = 0 ∧ start.cfg.wPulse = 752 / 100000 ∧
    start.cfg.wTri = 851 / 100000 ∧ start.cfg.wNoise = 494 / 100000 ∧ start.cfg.wDmc = 670 / 100000 :=
  ⟨start_inv, by decide, rfl, rfl, rfl, rfl⟩

theorem witness_SongStartValues : start.cfg.wellFormed = true ∧ start.image = some Image.blank ∧
    Image.blank.songCount ≠ 0 ∧ { Config.default with apuReset4015 := 0x10 }.wellFormed = true :=
  ⟨test_default_wellFormed, rfl, by decide, by decide +kernel⟩

theorem witness_ResetIsSongStart : start.cfg = Config.default ∧ start.image = some Image.blank := ⟨rfl, rfl⟩

theorem witness_SongStartForgetsThePast : start.cfg = edge.cfg ∧ start.image = edge.image ∧ start.image ≠ none ∧
    start.cfg.wellFormed = true := ⟨rfl, rfl, by decide, test_default_wellFormed⟩

/-- A file that Load takes. -/
def goodFile : List Byte :=
  file 0x00 0x80 1 noOverrides 0 [0xEA]

theorem witness_LoadFailsUnchanged : ([0x4E] : List Byte).take 5 ≠ magic ∧
    (magic.take 5 = magic ∧ magic.length < 0x80) ∧
    (goodFile.take 5 = magic ∧ 0x80 ≤ goodFile.length ∧ ¬ (goodFile.getD 9 0 ++ goodFile.getD 8 0 : Word) < 0x8000 ∧
      goodFile.getD 6 0 ≠ 0 ∧ goodFile.getD 0x7B 0 = 0) ∧
    ((file 0xFF 0x7F 1 noOverrides 0 []).take 5 = magic ∧
      (∀ b ∈ ((file 0xFF 0x7F 1 noOverrides 0 []).drop 0x70).take 8, b = 0)) ∧
    (file 0x00 0x80 0 noOverrides 0 []).getD 6 0 = 0 ∧ (file 0x00 0x80 1 noOverrides 1 []).getD 0x7B 0 ≠ 0 := by
  decide +kernel

theorem witness_LoadedPagesHoldTheData : (∃ t, load goodFile start = .next t) ∧
    ∃ t, load (file 0x00 0x04 1 [1, 0, 0, 0, 0, 0, 0, 0] 0 [0xEA]) start = .next t :=
  ⟨exists_next (by decide +kernel), exists_next (by decide +kernel)⟩

theorem witness_NextSamplePaysTheDebt : (¬ ∃ k : Nat, 0 < k ∧ (0 : Rat) = k) ∧ (¬ ∃ k : Nat, 0 < k ∧ (1 / 2 : Rat) = k) ∧
    (let s : State := { start with halted := true }
    s.cfg.wellFormed = true ∧ s.started = true ∧ s.fault = none ∧ 0 < 1789773 ∧ s.playing = true ∧
      (∃ r, nextSample 1789773 s = .next r) ∧ { s with playing := false }.playing = false) ∧
    start.playing = true ∧ ∃ t, nextSample 1789773 start = .fault (.core (.unsupportedOpcode 0x8000 0x00) t) := by
  refine ⟨fun ⟨k, hk, h⟩ => ?_, fun ⟨k, hk, h⟩ => ?_, ⟨test_default_wellFormed, rfl, rfl, by decide, rfl, exists_next (by decide +kernel), rfl⟩, rfl, ?_⟩
  · exact absurd (Nat.cast_eq_zero.1 h.symm) (by omega)
  · have h2 : (1 : Rat) = ((2 * k : Nat) : Rat) := by push_cast; linarith
    have : 1 = 2 * k := by exact_mod_cast h2
    omega
  have h : (match nextSample 1789773 start with
      | .fault (.core g _) => g == .unsupportedOpcode 0x8000 0x00
      | _ => false) = true := by decide +kernel
  split at h
  · rename_i g t hr
    exact ⟨t, by rw [hr, eq_of_beq h]⟩
  · exact absurd h (by decide)

theorem witness_StepKeepsTheInvariant : start.Inv ∧ { start with halted := true }.Inv ∧
    ∃ t, step { start with halted := true } = .next t :=
  ⟨start_inv, ⟨start_inv.configured, start_inv.ram, start_inv.image, start_inv.apu⟩, exists_next (by decide +kernel)⟩

end Sys2Proof.Tests
end

section
/-! PROOFS. The statements about the state (10_state.md): which instructions write each register and each flag (R20,
R21, R23, R29), which bytes the pushing instructions change (R27), that the stored B decides nothing (R26), and what
every step keeps and costs (R37, R341). -/

namespace Sys2Proof.Machine

/-! ### What a write to a location leaves alone -/

/-- A write to a location changes A only where the location is the accumulator, and no other register. -/
theorem writeLoc_registers {s t : State} {l : Loc} {r : Byte} (h : s.writeLoc l r = .ok t) :
    (l ≠ .acc → t.a = s.a) ∧ t.x = s.x ∧ t.y = s.y ∧ t.sp = s.sp ∧ t.halted = s.halted := by
  rcases writeLoc_cases h with rfl | ⟨rfl, rfl⟩ | ⟨ea, -, hw⟩
  · exact ⟨fun _ => rfl, rfl, rfl, rfl, rfl⟩
  · exact ⟨fun hl => absurd rfl hl, rfl, rfl, rfl, rfl⟩
  · rw [memWrite_frame hw]
    exact ⟨fun _ => rfl, rfl, rfl, rfl, rfl⟩

theorem resolve_loc_acc {s : State} {o : Operand} : (s.resolve o).loc = .acc ↔ o = .acc := by
  cases o <;> simp [State.resolve, indexed]

/-- The accumulator forms are those of the shifts and rotates (R95). -/
theorem mnemonic_of_operand_acc {i : Instr} (h : i.operand = .acc) : i.mnemonic ∈ [.asl, .lsr, .rol, .ror] := by
  cases i <;> first | (cases h; done) | (exact by decide)

/-- The location of an instruction that is no shift or rotate of the accumulator is not the accumulator. -/
theorem resolve_loc_ne_acc {i : Instr} (s : State)
    (h : ¬ (i.mnemonic ∈ [.asl, .lsr, .rol, .ror] ∧ i.operand = .acc)) : (s.resolve i.operand).loc ≠ .acc :=
  fun hl => h ⟨mnemonic_of_operand_acc (resolve_loc_acc.1 hl), resolve_loc_acc.1 hl⟩

/-! ### A, X and Y (R20) -/

/-- Between `s` and `t` only such of A, X and Y differ as R20 lists for a mnemonic with an operand. -/
def WritesListedRegisters (m : Mnemonic) (o : Operand) (s t : State) : Prop :=
  (t.a ≠ s.a → m ∈ [.lda, .pla, .txa, .tya, .adc, .sbc, .and, .ora, .eor] ∨
    (m ∈ [.asl, .lsr, .rol, .ror] ∧ o = .acc)) ∧
  (t.x ≠ s.x → m ∈ [.ldx, .tax, .tsx, .inx, .dex]) ∧
  (t.y ≠ s.y → m ∈ [.ldy, .tay, .iny, .dey])

theorem WritesListedRegisters.of_same {m : Mnemonic} {o : Operand} {s t : State} (ha : t.a = s.a) (hx : t.x = s.x)
    (hy : t.y = s.y) : WritesListedRegisters m o s t :=
  ⟨fun h => absurd ha h, fun h => absurd hx h, fun h => absurd hy h⟩

theorem readEffect_registers {m : Mnemonic} {e : Byte → State → State} (h : readEffect m = some e) (v : Byte)
    (s : State) (o : Operand) : WritesListedRegisters m o s (e v s) := by
  cases m <;> cases h <;>
    simp [WritesListedRegisters, State.andA, State.orA, State.xorA, State.compareA, State.compareX, State.compareY,
      State.bitTest]

theorem arithEffect_registers {m : Mnemonic} {e : Byte → State → State} (h : arithEffect m = some e) (v : Byte)
    (s : State) (o : Operand) : WritesListedRegisters m o s (e v s) := by
  cases m <;> cases h <;> simp [WritesListedRegisters, State.addCarry, State.subtractBorrow]

theorem impliedEffect_registers {m : Mnemonic} {e : State → State} (h : impliedEffect m = some e) (s : State)
    (o : Operand) : WritesListedRegisters m o s (e s) := by
  cases m <;> cases h <;> simp [WritesListedRegisters]

theorem writeLoc_writesListedRegisters {i : Instr} {s t : State} {r : Byte} (f : Flags)
    (h : State.writeLoc (s.resolve i.operand).loc r { s with flags := f } = .ok t) :
    WritesListedRegisters i.mnemonic i.operand s t := by
  obtain ⟨ha, hx, hy, -, -⟩ := writeLoc_registers h
  refine ⟨fun hne => .inr ?_, fun hne => absurd hx hne, fun hne => absurd hy hne⟩
  by_contra hacc
  exact hne (ha (resolve_loc_ne_acc s hacc))

/-- Settles O25: class by class, the effect of each mnemonic on A, X and Y. -/
theorem onlyListedInstructionsWriteRegisters : Obligations.OnlyListedInstructionsWriteRegisters := by
  intro i s t h
  refine exec_next_holds (P := fun i s t => WritesListedRegisters i.mnemonic i.operand s t) ?read ?arith ?store ?modify
    ?implied ?branch ?jmp ?ind ?jsr ?rts ?rti ?brk h
  case read => exact fun i s e m he _ => readEffect_registers he m s i.operand
  case arith => exact fun i s e m he _ _ => arithEffect_registers he m s i.operand
  case store =>
    intro i s e u _ hu
    have hw := writeLoc_writesListedRegisters s.flags hu
    exact hw
  case modify =>
    intro i s e v u _ _ hu
    have hw := writeLoc_writesListedRegisters _ hu
    exact hw
  case implied => exact fun i s e he => impliedEffect_registers he s i.operand
  case branch => exact fun _ _ _ _ _ _ _ _ => .of_same rfl rfl rfl
  case jmp => exact fun _ _ => .of_same rfl rfl rfl
  case ind => exact fun _ _ _ _ => .of_same rfl rfl rfl
  case jsr => exact fun _ _ => .of_same rfl rfl rfl
  case rts => exact fun _ => .of_same rfl rfl rfl
  case rti =>
    intro s t ht
    cases ht
    exact .of_same rfl rfl rfl
  case brk =>
    intro s w _ _
    simp [WritesListedRegisters, State.trapFrame]

/-! ### The flags, S and the halted flag (R21, R23, R27, R29) -/

/-- Between `s` and `t` only such of the flags, S and the halted flag differ as R23, R21, R27 and R29 list for a
mnemonic. -/
def WritesListedFlags (m : Mnemonic) (s t : State) : Prop :=
  (t.flags.n ≠ s.flags.n ∨ t.flags.z ≠ s.flags.z → m ∈ [.lda, .ldx, .ldy, .tax, .tay, .txa, .tya, .tsx, .pla,
    .plp, .adc, .sbc, .and, .ora, .eor, .cmp, .cpx, .cpy, .bit, .inc, .dec, .inx, .iny, .dex, .dey, .asl, .lsr, .rol,
    .ror, .rti]) ∧
  (t.flags.v ≠ s.flags.v → m ∈ [.adc, .sbc, .bit, .clv, .plp, .rti]) ∧
  (t.flags.b ≠ s.flags.b → m ∈ [.plp, .rti, .brk]) ∧
  (t.flags.d ≠ s.flags.d → m ∈ [.sed, .cld, .plp, .rti]) ∧
  (t.flags.i ≠ s.flags.i → m ∈ [.sei, .cli, .plp, .rti, .brk]) ∧
  (t.flags.c ≠ s.flags.c → m ∈ [.adc, .sbc, .cmp, .cpx, .cpy, .asl, .lsr, .rol, .ror, .clc, .sec, .plp, .rti]) ∧
  (t.sp ≠ s.sp → m ∈ [.txs, .pha, .php, .pla, .plp, .jsr, .rts, .rti, .brk]) ∧
  (t.halted ≠ s.halted → m = .rts)

theorem WritesListedFlags.of_same {m : Mnemonic} {s t : State} (hf : t.flags = s.flags) (hs : t.sp = s.sp)
    (hh : t.halted = s.halted) : WritesListedFlags m s t := by
  simp [WritesListedFlags, hf, hs, hh]

theorem readEffect_flags {m : Mnemonic} {e : Byte → State → State} (h : readEffect m = some e) (v : Byte) (s : State) :
    WritesListedFlags m s (e v s) := by
  cases m <;> cases h <;>
    simp [WritesListedFlags, State.andA, State.orA, State.xorA, State.compareA, State.compareX, State.compareY,
      State.bitTest, Flags.setNZ, Flags.compare, Flags.bitTest]

theorem arithEffect_flags {m : Mnemonic} {e : Byte → State → State} (h : arithEffect m = some e) (v : Byte)
    (s : State) : WritesListedFlags m s (e v s) := by
  cases m <;> cases h <;> simp [WritesListedFlags, State.addCarry, State.subtractBorrow, Flags.setNZ]

theorem impliedEffect_flags {m : Mnemonic} {e : State → State} (h : impliedEffect m = some e) (s : State) :
    WritesListedFlags m s (e s) := by
  cases m <;> cases h <;> simp [WritesListedFlags, Flags.setNZ]

theorem modifyEffect_flags {m : Mnemonic} {e : (Bool → Byte → Byte) × (Bool → Byte → Bool)}
    (h : modifyEffect m = some e) {s u : State} {v r : Byte}
    (hf : u.flags = { s.flags with c := e.2 s.flags.c v }) (hs : u.sp = s.sp) (hh : u.halted = s.halted) :
    WritesListedFlags m s { u with flags := u.flags.setNZ r } := by
  cases m <;> cases h <;> simp [WritesListedFlags, Flags.setNZ, hf, hs, hh, carryKept]

/-- Settles O26: class by class, the effect of each mnemonic on the flags, S and the halted flag. -/
theorem onlyListedInstructionsWriteFlags : Obligations.OnlyListedInstructionsWriteFlags := by
  intro i s t h
  refine exec_next_holds (P := fun i s t => WritesListedFlags i.mnemonic s t) ?read ?arith ?store ?modify ?implied
    ?branch ?jmp ?ind ?jsr ?rts ?rti ?brk h
  case read => exact fun i s e m he _ => readEffect_flags he m s
  case arith => exact fun i s e m he _ _ => arithEffect_flags he m s
  case store =>
    intro i s e u _ hu
    obtain ⟨-, -, -, hs, hh⟩ := writeLoc_registers hu
    obtain ⟨-, hf, -⟩ := writeLoc_frame hu
    exact .of_same hf hs hh
  case modify =>
    intro i s e v u he _ hu
    obtain ⟨-, -, -, hs, hh⟩ := writeLoc_registers hu
    obtain ⟨-, hf, -⟩ := writeLoc_frame hu
    exact modifyEffect_flags he hf hs hh
  case implied => exact fun i s e he => impliedEffect_flags he s
  case branch => exact fun _ _ _ _ _ _ _ _ => .of_same rfl rfl rfl
  case jmp => exact fun _ _ => .of_same rfl rfl rfl
  case ind => exact fun _ _ _ _ => .of_same rfl rfl rfl
  case jsr =>
    intro w s
    simp [WritesListedFlags, Instr.mnemonic]
  case rts =>
    intro s
    simp [WritesListedFlags, Instr.mnemonic, State.subroutineReturn]
  case rti =>
    intro s t ht
    cases ht
    simp [WritesListedFlags, Instr.mnemonic]
  case brk =>
    intro s w _ _
    simp [WritesListedFlags, Instr.mnemonic, State.trapFrame]

/-! ### The bytes that are pushed (R27, R150, R151, R201, R225) -/

theorem sameButStall.trans {p q r : Apu} (hpq : sameButStall p q) (hqr : sameButStall q r) : sameButStall p r := by
  unfold sameButStall at *
  rw [hqr, hpq]

/-- From `s` to `t`, `k` bytes are pushed, and nothing else that a read depends on changes, nor the APU but for the
pending stall. -/
structure PushesBytes (k : Nat) (s t : State) : Prop where
  sp : t.sp = s.sp - BitVec.ofNat 8 k
  select : t.select = s.select
  cfg : t.cfg = s.cfg
  apu : sameButStall s.apu t.apu
  bytes : ∀ a, (∀ j, j < k → ¬ aliases s (stackAddr (s.sp - BitVec.ofNat 8 j)) a) → t.memRead a = s.memRead a

theorem PushesBytes.zero (s : State) : PushesBytes 0 s s :=
  ⟨(BitVec.sub_zero _).symm, rfl, rfl, rfl, fun _ _ => rfl⟩

theorem PushesBytes.push {k : Nat} {s t : State} (h : PushesBytes k s t) (v : Byte) :
    PushesBytes (k + 1) s (t.push v) where
  sp := by
    rw [State.push_sp, h.sp, BitVec.ofNat_add, ← sub_sub]
    rfl
  select := h.select
  cfg := h.cfg
  apu := h.apu
  bytes := fun a ha => by
    have hk : ¬ aliases t (stackAddr t.sp) a := by
      rw [h.sp, aliases, h.cfg]
      exact ha k (Nat.lt_succ_self k)
    rw [memRead_push_ne v hk]
    exact h.bytes a fun j hj => ha j (Nat.lt_succ_of_lt hj)

theorem PushesBytes.push16 {k : Nat} {s t : State} (h : PushesBytes k s t) (w : Word) :
    PushesBytes (k + 2) s (t.push16 w) :=
  (h.push (highByte w)).push (lowByte w)

/-- What happens to the program counter, the flags, the cost and the pending stall beside the pushes does not count. -/
theorem PushesBytes.of_same {k : Nat} {s t u : State} (h : PushesBytes k s t) (hsp : u.sp = t.sp)
    (hram : u.ram = t.ram) (hsel : u.select = t.select) (hcfg : u.cfg = t.cfg) (him : u.image = t.image)
    (hapu : sameButStall t.apu u.apu) : PushesBytes k s u :=
  ⟨hsp.trans h.sp, hsel.trans h.select, hcfg.trans h.cfg, h.apu.trans hapu,
    fun a ha => (memRead_congr hram hsel hcfg him a).trans (h.bytes a ha)⟩

theorem PushesBytes.withFlags {k : Nat} {s t : State} (h : PushesBytes k s t) (f : Flags) :
    PushesBytes k s { t with flags := f } :=
  h.of_same rfl rfl rfl rfl rfl rfl

theorem PushesBytes.transferred {k : Nat} {s t : State} (h : PushesBytes k s t) (w : Word) (n : Nat) :
    PushesBytes k s ({ t with pc := w }.charge n) :=
  h.of_same rfl rfl rfl rfl rfl rfl

theorem PushesBytes.completed {k : Nat} {s t : State} (h : PushesBytes k s t) (i : Instr) :
    PushesBytes k s (State.completed i s t) :=
  h.of_same rfl rfl rfl rfl rfl rfl

theorem pushesBytes_trapFrame (s : State) : PushesBytes 3 s s.trapFrame :=
  (((PushesBytes.zero s).push16 (s.pc + 2)).push s.flags.pushed).withFlags _

/-- PHA and PHP push one byte, JSR two, BRK three. -/
theorem exec_pushesBytes {i : Instr} {s t : State} {k : Nat}
    (hk : (i.mnemonic ∈ [.pha, .php] ∧ k = 1) ∨ (i.mnemonic = .jsr ∧ k = 2) ∨ (i.mnemonic = .brk ∧ k = 3))
    (h : exec i s = .next t) : PushesBytes k s t := by
  rcases hk with ⟨hm, rfl⟩ | ⟨hm, rfl⟩ | ⟨hm, rfl⟩
  · have hone : ∃ v, exec i s = .next (State.completed i s (s.push v)) := by
      rcases List.mem_pair.1 hm with hm | hm
      · exact ⟨_, exec_implied_ok (e := fun s => s.push s.a) (by rw [hm]; rfl) s⟩
      · exact ⟨_, exec_implied_ok (e := fun s => s.push s.flags.pushed) (by rw [hm]; rfl) s⟩
    obtain ⟨v, hv⟩ := hone
    cases hv.symm.trans h
    exact ((PushesBytes.zero s).push v).completed i
  · obtain ⟨w, rfl⟩ : ∃ w, i = .jsr w := by cases i <;> first | (cases hm; done) | exact ⟨_, rfl⟩
    cases (exec_direct w s).2.1.symm.trans h
    exact ((PushesBytes.zero s).push16 (s.pc + 2)).transferred w 6
  · obtain rfl : i = .brk := by cases i <;> first | (cases hm; done) | rfl
    obtain ⟨w, -, -, rfl⟩ := exec_brk_next h
    exact (pushesBytes_trapFrame s).transferred w 7

/-- Settles O29: the pushed bytes are counted push by push. -/
theorem pushFrameByByte : Obligations.PushFrameByByte := by
  intro i s t k hk h
  obtain ⟨hsp, hsel, -, hapu, hbytes⟩ := exec_pushesBytes hk h
  exact ⟨hsp, hsel, hapu, hbytes⟩

/-! ### The stored B (R26) -/

section
variable (s : State) (b : Bool)

theorem memRead_setB (a : Word) : (s.setB b).memRead a = s.memRead a :=
  memRead_congr rfl rfl rfl rfl a

theorem resolve_setB (o : Operand) : (s.setB b).resolve o = s.resolve o := by
  cases o <;> rfl

theorem readOperand_setB (o : Operand) : (s.setB b).readOperand o = s.readOperand o := by
  rw [State.readOperand, State.readOperand, resolve_setB]
  cases (s.resolve o).loc <;> rfl

theorem indirectTarget_setB (w : Word) : (s.setB b).indirectTarget w = s.indirectTarget w := by
  simp only [State.indirectTarget, memRead_setB]
  rfl

theorem completed_setB (i : Instr) (u : State) (c : Bool) :
    State.completed i (s.setB b) (u.setB c) = (State.completed i s u).setB c := by
  simp only [State.completed, Instr.extraClocks, resolve_setB]
  rfl

/-- The byte that PHP and BRK push has bit 4 set whatever B is (R151, R225). -/
theorem pushed_setB : (s.setB b).flags.pushed = s.flags.pushed := by
  rw [Flags.pushed_bits, Flags.pushed_bits]
  rfl

theorem trapFrame_setB : (s.setB b).trapFrame = s.trapFrame := by
  rw [State.trapFrame, pushed_setB]
  rfl

end

theorem writeLoc_setB {s t : State} {l : Loc} {r : Byte} (h : s.writeLoc l r = .ok t) (b : Bool) :
    (s.setB b).writeLoc l r = .ok (t.setB b) := by
  obtain ⟨-, hf, -⟩ := writeLoc_frame h
  rw [State.setB, State.setB, hf]
  exact writeLoc_flags h _

theorem readEffect_setB {m : Mnemonic} {e : Byte → State → State} (h : readEffect m = some e) (v : Byte) (s : State)
    (b : Bool) : e v (s.setB b) = (e v s).setB b := by
  cases m <;> cases h <;> rfl

theorem arithEffect_setB {m : Mnemonic} {e : Byte → State → State} (h : arithEffect m = some e) (v : Byte) (s : State)
    (b : Bool) : e v (s.setB b) = (e v s).setB b := by
  cases m <;> cases h <;> rfl

theorem storedRegister_setB {m : Mnemonic} {e : State → Byte} (h : storedRegister m = some e) (s : State) (b : Bool) :
    e (s.setB b) = e s := by
  cases m <;> cases h <;> rfl

theorem branchTaken_setB {m : Mnemonic} {e : Flags → Bool} (h : branchTaken m = some e) (s : State) (b : Bool) :
    e (s.setB b).flags = e s.flags := by
  cases m <;> cases h <;> rfl

/-- Of the instructions with no operand, only PLP writes B, from the pulled byte. -/
theorem impliedEffect_setB {m : Mnemonic} {e : State → State} (h : impliedEffect m = some e) (s : State) (b : Bool) :
    e (s.setB b) = (e s).setB (if m = .plp then (e s).flags.b else b) := by
  cases m <;> cases h <;> first | rfl | (show State.push (s.setB b).flags.pushed _ = _; rw [pushed_setB]; rfl)

theorem exec_store_completed {i : Instr} {e : State → Byte} (h : storedRegister i.mnemonic = some e) {s u : State}
    (hu : s.writeLoc (s.resolve i.operand).loc (e s) = .ok u) : exec i s = .next (State.completed i s u) := by
  obtain ⟨hp, -, hst⟩ := writeLoc_frame hu
  rw [exec_store h, State.writeClass, hu]
  exact congrArg _ (finish_plain i s u hst hp (pageCross_store h))

theorem exec_brk_ok {s : State} {w : Word} (hb : s.cfg.brk = .standard) (hw : s.trapFrame.memRead2 0xFFFE = .ok w) :
    exec .brk s = .next ({ s.trapFrame with pc := w }.charge 7) := by
  show execBrk s = _
  rw [execBrk, hb]
  show s.trap 7 = _
  rw [State.trap, hw]

theorem exec_jmpInd_ok {s : State} {w u : Word} (hu : s.indirectTarget w = .ok u) :
    exec (.jmpInd w) s = .next ({ s with pc := u }.charge 5) := by
  show execJmpInd w s = _
  rw [execJmpInd, hu]

/-- With any stored B in `s`, the instruction that leads from `s` to `t` leads to `t` but for the stored B, which is
that of `t` after PLP, RTI and BRK (R26). -/
def BreakFlagInert (i : Instr) (s t : State) : Prop :=
  ∀ b, ∃ b', exec i (s.setB b) = .next (t.setB b') ∧ (i.mnemonic ∈ [.plp, .rti, .brk] → b' = t.flags.b)

/-- An instruction that is not one of the three that write B carries the stored B along. -/
theorem BreakFlagInert.of_kept {i : Instr} {s t : State} (hm : i.mnemonic ∉ [.plp, .rti, .brk])
    (h : ∀ b, exec i (s.setB b) = .next (t.setB b)) : BreakFlagInert i s t :=
  fun b => ⟨b, h b, fun hw => absurd hw hm⟩

/-- An instruction that does not see B at all and sets it itself ends in the same state. -/
theorem BreakFlagInert.of_eq {i : Instr} {s t : State} (h : ∀ b, exec i (s.setB b) = .next t) : BreakFlagInert i s t :=
  fun b => ⟨t.flags.b, h b, fun _ => rfl⟩

/-- A mnemonic of a class to which PLP, RTI and BRK do not belong is none of the three. -/
theorem not_writesB_of_class {α : Type} {f : Mnemonic → Option α} (hf : ∀ m ∈ [.plp, .rti, .brk], f m = none)
    {m : Mnemonic} {e : α} (h : f m = some e) : m ∉ [.plp, .rti, .brk] := fun hm => by
  rw [hf m hm] at h
  cases h

/-- A read-modify-write instruction reads, writes and sets the flags the same way whatever B is. -/
theorem exec_modify_setB {i : Instr} {s u : State} {e : (Bool → Byte → Byte) × (Bool → Byte → Bool)} {v : Byte}
    (he : modifyEffect i.mnemonic = some e) (hv : s.readOperand i.operand = .ok v)
    (hu : State.writeLoc (s.resolve i.operand).loc (e.1 s.flags.c v)
      { s with flags := { s.flags with c := e.2 s.flags.c v } } = .ok u) (b : Bool) :
    exec i (s.setB b) =
      .next ((State.completed i s { u with flags := u.flags.setNZ (e.1 s.flags.c v) }).setB b) := by
  obtain ⟨-, hf, -⟩ := writeLoc_frame hu
  have hw : State.writeLoc ((s.setB b).resolve i.operand).loc (e.1 s.flags.c v) (s.setB b) =
      .ok { u with flags := (s.setB b).flags } := by
    rw [resolve_setB]
    exact writeLoc_flags hu (s.setB b).flags
  rw [exec_modify_ok he ((readOperand_setB s b _).trans hv) hw, ← completed_setB]
  simp only [hf]
  rfl

/-- No operand, no operand location and no effect depends on the stored B. -/
theorem exec_breakFlagInert {i : Instr} {s t : State} (h : exec i s = .next t) : BreakFlagInert i s t := by
  refine exec_next_holds (P := fun i s t => exec i s = .next t → BreakFlagInert i s t) ?read ?arith ?store ?modify
    ?implied ?branch ?jmp ?ind ?jsr ?rts ?rti ?brk h h
  case read =>
    intro i s e m he hm _
    refine .of_kept (not_writesB_of_class (by decide) he) fun b => ?_
    rw [exec_read_ok he ((readOperand_setB s b _).trans hm), readEffect_setB he, completed_setB]
  case arith =>
    intro i s e m he hd hm _
    refine .of_kept (not_writesB_of_class (by decide) he) fun b => ?_
    rw [exec_arith_ok (s := s.setB b) he hd ((readOperand_setB s b _).trans hm), arithEffect_setB he, completed_setB]
  case store =>
    intro i s e u he hu _
    refine .of_kept (not_writesB_of_class (by decide) he) fun b => ?_
    rw [exec_store_completed he (u := u.setB b) (by
      rw [resolve_setB, storedRegister_setB he]; exact writeLoc_setB hu b), completed_setB]
  case modify =>
    intro i s e v u he hv hu _
    exact .of_kept (not_writesB_of_class (by decide) he) (exec_modify_setB he hv hu)
  case implied =>
    intro i s e he _ b
    refine ⟨if i.mnemonic = .plp then (e s).flags.b else b, ?_, fun hm => ?_⟩
    · rw [exec_implied_ok he, impliedEffect_setB he, completed_setB]
    · rcases List.mem_cons.1 hm with hp | hm
      · rw [if_pos hp]
        rfl
      · rcases List.mem_pair.1 hm with hm | hm <;> rw [hm] at he <;> cases he
  case branch =>
    intro i s e r he ho n w h
    refine .of_kept (not_writesB_of_class (by decide) he) fun b => ?_
    obtain ⟨r', ho', hr⟩ := exec_branch he s
    obtain ⟨r'', ho'', hr'⟩ := exec_branch he (s.setB b)
    cases ho'.symm.trans ho''
    rw [hr', branchTaken_setB he, ← Host.Outcome.next.inj (hr.symm.trans h)]
    rfl
  case jmp => exact fun _ _ _ => .of_kept (by simp [Instr.mnemonic]) fun _ => rfl
  case ind =>
    intro w s u hu _
    refine .of_kept (by simp [Instr.mnemonic]) fun b => ?_
    rw [exec_jmpInd_ok ((indirectTarget_setB s b w).trans hu)]
    rfl
  case jsr => exact fun _ _ _ => .of_kept (by simp [Instr.mnemonic]) fun _ => rfl
  case rts => exact fun _ _ => .of_kept (by simp [Instr.mnemonic]) fun _ => rfl
  case rti => exact fun _ _ _ h => .of_eq fun _ => h
  case brk =>
    intro s w hb hw _
    refine .of_eq fun b => ?_
    rw [exec_brk_ok (s := s.setB b) hb ((congrArg (State.memRead2 · 0xFFFE) (trapFrame_setB s b)).trans hw),
      trapFrame_setB]

/-- Settles O35: every completing instruction carries the stored B along or sets it from what it pulls or pushes. -/
theorem storedBreakFlagIsInert : Obligations.StoredBreakFlagIsInert :=
  fun _ _ _ b h => exec_breakFlagInert h b

/-! ### What a step keeps, and what it costs (R37, R341) -/

/-- Every row of R95's table costs at least one clock. -/
theorem baseClocks_pos (i : Instr) : 1 ≤ i.baseClocks := by
  have hrows : ∀ r ∈ opcodeTable, 1 ≤ r.clocks := by decide +kernel
  obtain ⟨r, hr, -⟩ := opcodeRow i
  rw [Instr.baseClocks, hr]
  exact hrows r (mem_of_findRow hr).1

theorem completed_cost_pos (i : Instr) (s t : State) : 1 ≤ (State.completed i s t).cost := by
  have hbase := baseClocks_pos i
  show 1 ≤ i.baseClocks + Instr.extraClocks i s + s.apu.dmc.stallPending
  omega

theorem charge_cost_pos {n : Nat} (hn : 1 ≤ n) (s : State) : 1 ≤ (s.charge n).cost :=
  le_trans hn (Nat.le_add_right _ _)

theorem exec_cost_pos {i : Instr} {s t : State} (h : exec i s = .next t) : 1 ≤ t.cost := by
  refine exec_next_holds (P := fun i s t => exec i s = .next t → 1 ≤ t.cost) ?read ?arith ?store ?modify ?implied
    ?branch ?jmp ?ind ?jsr ?rts ?rti ?brk h h
  case read => exact fun _ _ _ _ _ _ _ => completed_cost_pos ..
  case arith => exact fun _ _ _ _ _ _ _ _ => completed_cost_pos ..
  case store => exact fun _ _ _ _ _ _ _ => completed_cost_pos ..
  case modify => exact fun _ _ _ _ _ _ _ _ _ => completed_cost_pos ..
  case implied => exact fun _ _ _ _ _ => completed_cost_pos ..
  case branch =>
    intro i s e r he _ n w h
    obtain ⟨r', -, hr⟩ := exec_branch he s
    rw [← Host.Outcome.next.inj (hr.symm.trans h)]
    exact charge_cost_pos (le_trans (baseClocks_pos i) (Nat.le_add_right _ _)) _
  case jmp => exact fun _ _ _ => charge_cost_pos (by decide) _
  case ind => exact fun _ _ _ _ _ => charge_cost_pos (by decide) _
  case jsr => exact fun _ _ _ => charge_cost_pos (by decide) _
  case rts => exact fun _ _ => charge_cost_pos (by decide) _
  case rti =>
    intro s t ht _
    cases ht
    exact charge_cost_pos (by decide) _
  case brk => exact fun _ _ _ _ _ => charge_cost_pos (by decide) _

theorem executeOne_cost_pos {s t : State} (hc : s.cfg.Facts) (h : s.executeOne = .next t) : 1 ≤ t.cost := by
  unfold State.executeOne at h
  split at h
  · cases h
    exact charge_cost_pos hc.haltCost s
  · split at h
    · cases h
    · exact exec_cost_pos h

theorem playDriver_cost (s : State) : s.playDriver.cost = s.cost := by
  unfold State.playDriver
  simp only
  split
  · split <;> rfl
  · rfl

theorem clockChannels_cost {s t : State} (h : s.clockChannels = .next t) : t.cost = s.cost := by
  unfold State.clockChannels at h
  rcases dmcClock_cases { s with apu := s.apu.clockWaves s.cfg } with ⟨d, hd, -⟩ | ⟨d, f, -, hd⟩
  · cases hd.symm.trans h
    rfl
  · cases hd.symm.trans h

theorem clockTimes_cost {n : Nat} {s t : State} (h : clockTimes n s = .next t) : t.cost = s.cost := by
  induction n generalizing s with
  | zero =>
    cases h
    rfl
  | succ n ih =>
    unfold clockTimes at h
    cases hc : s.clockChannels with
    | next u =>
      rw [hc] at h
      exact (ih h).trans (clockChannels_cost hc)
    | fault f => rw [hc] at h; cases h
    | refused r => rw [hc] at h; cases h

/-- The play driver and the APU tick leave the cost that the instruction gave the step. -/
theorem step_cost_pos {s t : State} (hc : s.cfg.Facts) (h : step s = .next t) : 1 ≤ t.cost := by
  obtain ⟨-, -, u, hu, ht⟩ := step_next h
  have hcost : t.cost = u.cost := (clockTimes_cost ht).trans (playDriver_cost u)
  rw [hcost]
  exact executeOne_cost_pos hc hu

/-- Settles O38: what every part of a step keeps, and the cost of its instruction. -/
theorem stepKeepsTheLaunch : Obligations.StepKeepsTheLaunch := by
  intro s t hc h
  have hk : Keeps s t := step_keeps h
  have hfault : s.fault = none := (step_next h).2.1
  exact ⟨hk.cfg, hk.image, hk.currentSong, hk.playing, hk.debt, hk.started, hk.fault.trans hfault,
    step_cost_pos (Config.facts hc) h⟩

end Sys2Proof.Machine
end

section
/-! PROOFS. The statements about memory (20_memory.md): the read and write decode (R54 to R58, R373, R375), a read after
a write (R65), the bank-select write (R68), the memory frame of a store or read-modify-write (R63, R125), and Load (R70
to R77). -/

namespace Sys2Proof.Machine

/-! ### The read decode (R54, R55, R373) -/

theorem pageOf_eq {a : Word} {w : Nat} (h : w < 8) (hw : w = (a.toNat / 0x1000) % 8) (s : State) :
    s.pageOf a = s.select[w] := by
  simp only [State.pageOf, windowOf_toNat, hw]

theorem pageCount_of_image {s : State} {im : Image} (h : s.image = some im) : s.pageCount = im.pageCount := by
  rw [State.pageCount, h]

theorem memRead_page {s : State} {im : Image} {a : Word} (him : s.image = some im) (ha : 0x8000 ≤ a)
    (hp : s.pageOf a < im.pageCount) :
    s.memRead a = .ok (im.rom.read (0x1000 * s.pageOf a + a.toNat % 0x1000)) := by
  rw [State.memRead, if_neg (by bv_omega), if_pos (pageCount_of_image him ▸ hp), State.pageByte, him, pageOffset_toNat]
  rfl

/-- The page that the window of `a` shows is beyond the image. -/
theorem memRead_beyond {s : State} {a : Word} (ha : 0x8000 ≤ a) (hp : s.pageCount ≤ s.pageOf a) :
    (s.cfg.bankOor = .zero → s.memRead a = .ok 0) ∧
    (s.cfg.bankOor = .fault → s.memRead a = .error (.bankOutOfRange a (s.pageOf a))) := by
  rw [State.memRead, if_neg (by bv_omega), if_neg (by omega)]
  exact ⟨fun h => by rw [h], fun h => by rw [h]⟩

/-- Settles O31: RAM below 0x8000, above it the selected page or what P_BANK_OOR makes of one beyond the image. -/
theorem readDecode : Obligations.ReadDecode := by
  intro s im a him
  refine ⟨fun hlow => memRead_low hlow, fun ha w hw hwa => ?_⟩
  have hcount := pageCount_of_image him
  rw [← pageOf_eq hw hwa s, ← hcount]
  exact ⟨fun hp => memRead_page him ha (hcount ▸ hp), fun hp => (memRead_beyond ha hp).1,
    fun hp => (memRead_beyond ha hp).2⟩

/-! ### The write decode (R57, R58, R375) -/

theorem memWrite_apu {a : Word} (hlo : 0x4000 ≤ a) (hhi : a ≤ 0x4015) (v : Byte) (s : State) :
    s.memWrite a v = .ok { s with apu := apuWrite s.cfg a v s.apu } := by
  rw [State.memWrite, if_neg (by bv_omega), if_pos ⟨hlo, hhi⟩]

theorem memWrite_frameMode (v : Byte) (s : State) :
    s.memWrite 0x4017 v = .ok { s with apu := frameModeWrite v s.apu } :=
  rfl

theorem isBankAddr_iff {s : State} {a : Word} :
    s.isBankAddr a = true ↔ s.cfg.bankBase ≤ a.toNat ∧ a.toNat ≤ s.cfg.bankBase + 7 := by
  simp [State.isBankAddr]

/-- `BankWrite(k, v)` sets selection k alone (R58). -/
theorem bankWrite_eq {k : Nat} (hk : k < 8) (v : Byte) (s : State) :
    s.bankWrite k v = { s with select := s.select.set k v.toNat } := by
  have hset : s.select.setIfInBounds k v.toNat = s.select.set k v.toNat := by
    ext j hj
    rw [Vector.getElem_setIfInBounds, Vector.getElem_set]
  rw [State.bankWrite, hset]

/-- The bank-select addresses lie above every APU register (R8), so the decode reaches their line. -/
theorem memWrite_bank {s : State} (hc : s.cfg.Facts) {a : Word} {k : Nat} (hk : k < 8)
    (ha : a.toNat = s.cfg.bankBase + k) (v : Byte) :
    s.memWrite a v = .ok { s with select := s.select.set k v.toNat } := by
  have hbottom := hc.bankBottom
  have hbank : s.isBankAddr a = true := isBankAddr_iff.2 (by omega)
  have hsub : a.toNat - s.cfg.bankBase = k := by omega
  rw [State.memWrite, if_neg (by bv_omega), if_neg (by bv_omega), if_neg (by bv_omega), if_pos hbank, hsub,
    bankWrite_eq hk]

/-- An address that no line of the write decode claims. -/
theorem memWrite_unmapped {s : State} {a : Word} (hlow : 0x2000 ≤ a) (hapu : ¬ (0x4000 ≤ a ∧ a ≤ 0x4015))
    (hmode : a ≠ 0x4017) (hbank : ¬ s.isBankAddr a = true) (v : Byte) :
    (s.cfg.unmappedWrite = .ignore → s.memWrite a v = .ok s) ∧
    (s.cfg.unmappedWrite = .fault → s.memWrite a v = .error (.unmappedWrite a v)) := by
  rw [State.memWrite, if_neg (by bv_omega), if_neg hapu, if_neg hmode, if_neg hbank]
  exact ⟨fun h => by rw [h], fun h => by rw [h]⟩

/-- Settles O32: one lemma per line of the write decode. -/
theorem writeDecode : Obligations.WriteDecode := by
  intro s a v hc
  exact ⟨fun hlow => memWrite_low hlow, fun hlo hhi => memWrite_apu hlo hhi v s, memWrite_frameMode v s,
    fun k hk ha => memWrite_bank (Config.facts hc) hk ha v,
    fun hlow hapu hmode hbank => memWrite_unmapped hlow hapu hmode (mt isBankAddr_iff.1 hbank) v⟩

/-! ### A read after a write (R65, R68) -/

theorem memRead_memWrite_aliases {s t : State} {a b : Word} {v : Byte} (hwf : s.ram.wf) (h : s.memWrite a v = .ok t)
    (ha : a < 0x2000) (hab : aliases s a b) : t.memRead b = .ok v := by
  cases (memWrite_low ha).symm.trans h
  exact (memRead_ramWrite hwf.1 a b v).trans (if_pos hab)

theorem aliases_self (s : State) {a : Word} (ha : a < 0x2000) : aliases s a a :=
  ⟨by bv_omega, rfl⟩

theorem not_mayChange_low {s : State} {a b : Word} (ha : a < 0x2000) (hab : ¬ aliases s a b) : ¬ mayChange s a b := by
  rintro (⟨-, hal⟩ | ⟨hhigh, -⟩)
  · exact hab hal
  · bv_omega

theorem not_mayChange_ram {s : State} {a b : Word} (ha : 0x2000 ≤ a) (hb : b < 0x8000) : ¬ mayChange s a b := by
  rintro (⟨hlow, -⟩ | ⟨-, -, hhigh, -⟩)
  · bv_omega
  · bv_omega

theorem not_mayChange_other_window {s : State} (hc : s.cfg.Facts) {a b : Word} {k : Nat}
    (ha : a.toNat = s.cfg.bankBase + k) (hb : (b.toNat / 0x1000) % 8 ≠ k) : ¬ mayChange s a b := by
  have hbottom := hc.bankBottom
  rintro (⟨hlow, -⟩ | ⟨-, -, -, hwin⟩)
  · bv_omega
  · rw [windowOf_toNat] at hwin
    omega

/-- Settles O33: the written cell's mirrors read the byte; every other address is outside `mayChange`. -/
theorem readAfterWrite : Obligations.ReadAfterWrite := by
  intro s t a b v hwf h
  exact ⟨fun ha hab => memRead_memWrite_aliases hwf h ha hab,
    fun ha hab => memRead_memWrite_ne h (not_mayChange_low ha hab),
    fun ha hb => memRead_memWrite_ne h (not_mayChange_ram ha hb)⟩

/-- Settles O34: the write is the selection of its window, which the read decode then shows. -/
theorem bankSelectChangesItsWindow : Obligations.BankSelectChangesItsWindow := by
  intro s t im a b v k hk hc him ha h
  have hfacts := Config.facts hc
  have ht : t = { s with select := s.select.set k v.toNat } :=
    Except.ok.inj (h.symm.trans (memWrite_bank hfacts hk ha v))
  refine ⟨ht, fun hb => ⟨fun hwin hpg => ?_, fun hwin => ?_⟩⟩
  · have hpage : t.pageOf b = v.toNat := by
      rw [pageOf_eq hk hwin.symm, ht]
      exact Vector.getElem_set_self hk
    have himt : t.image = some im := by rw [ht, him]
    rw [memRead_page himt hb (hpage ▸ hpg), hpage]
  · exact memRead_memWrite_ne h (not_mayChange_other_window hfacts ha hwin)

/-! ### The memory frame of a store or a read-modify-write (R63, R125) -/

theorem storedRegister_or_modifyEffect {m : Mnemonic}
    (hm : m ∈ [.sta, .stx, .sty, .inc, .dec, .asl, .lsr, .rol, .ror]) :
    (∃ e, storedRegister m = some e) ∨ ∃ e, modifyEffect m = some e := by
  cases m <;> first
    | exact .inl ⟨_, rfl⟩
    | exact .inr ⟨_, rfl⟩
    | exact absurd hm (by decide)

theorem storedRegister_none_of_modifyEffect {m : Mnemonic} {e : (Bool → Byte → Byte) × (Bool → Byte → Bool)}
    (h : modifyEffect m = some e) : storedRegister m = none := by
  cases m <;> first | (cases h; done) | rfl

/-- What a completed store or read-modify-write does to memory is one write at its address, of the register for a
store. -/
theorem exec_writes_byte {i : Instr} {s t : State} {ea : Word}
    (hm : i.mnemonic ∈ [.sta, .stx, .sty, .inc, .dec, .asl, .lsr, .rol, .ror])
    (hl : (s.resolve i.operand).loc = .mem ea) (h : exec i s = .next t) :
    ∃ r u, s.memWrite ea r = .ok u ∧ (∀ a, t.memRead a = u.memRead a) ∧
      ∀ e, storedRegister i.mnemonic = some e → r = e s := by
  rcases storedRegister_or_modifyEffect hm with ⟨e, he⟩ | ⟨e, he⟩
  · obtain ⟨u, hu, rfl⟩ := exec_store_next he h
    rw [hl] at hu
    refine ⟨e s, u, hu, memRead_congr rfl rfl rfl rfl, fun e' he' => ?_⟩
    cases he.symm.trans he'
    rfl
  · obtain ⟨v, u, -, hu, rfl⟩ := exec_modify_next he h
    rw [hl] at hu
    refine ⟨_, { u with flags := s.flags }, writeLoc_flags hu s.flags, memRead_congr rfl rfl rfl rfl, fun e' he' => ?_⟩
    rw [storedRegister_none_of_modifyEffect he] at he'
    cases he'

/-- Settles O28: the frame of the one write that the instruction does. -/
theorem storeFrameByByte : Obligations.StoreFrameByByte := by
  intro i s t ea hwf hm hl h
  obtain ⟨r, u, hu, hread, hreg⟩ := exec_writes_byte hm hl h
  have halias : ea < 0x2000 → ∀ a, aliases s ea a → t.memRead a = .ok r := fun hea a ha =>
    (hread a).trans (memRead_memWrite_aliases hwf hu hea ha)
  have hself : ea < 0x2000 → t.memRead ea = .ok r := fun hea => halias hea ea (aliases_self s hea)
  have hstored : ∀ e, storedRegister i.mnemonic = some e → ea < 0x2000 → t.memRead ea = .ok (e s) :=
    fun e he hea => hreg e he ▸ hself hea
  refine ⟨fun a ha => (hread a).trans (memRead_memWrite_ne hu ha),
    fun hea a ha => (halias hea a ha).trans (hself hea).symm, fun hi => ?_, fun hi => ?_, fun hi => ?_⟩
  · exact hstored State.a (by rw [hi]; rfl)
  · exact hstored State.x (by rw [hi]; rfl)
  · exact hstored State.y (by rw [hi]; rfl)

/-! ### Load (R70 to R77, R346) -/

theorem fileOverrides_getElem (file : List Byte) {k : Nat} (hk : k < 8) :
    (fileOverrides file)[k] = file.getD (0x70 + k) 0 := by
  interval_cases k <;> rfl

/-- A whole header holds the eight overrides (R71). -/
theorem fileOverrides_toList {file : List Byte} (h : headerSize ≤ file.length) :
    (fileOverrides file).toList = (file.drop 0x70).take 8 := by
  unfold headerSize at h
  refine List.ext_getElem (by simp; omega) fun k hk _ => ?_
  have hk8 : k < 8 := by simpa using hk
  rw [Vector.getElem_toList, fileOverrides_getElem file hk8, List.getElem_take, List.getElem_drop,
    List.getD_eq_getElem _ _ (by omega)]

theorem isBanked_eq_false_iff {file : List Byte} (h : headerSize ≤ file.length) :
    isBanked (fileOverrides file) = false ↔ ∀ b ∈ (file.drop 0x70).take 8, b = 0 := by
  simp [isBanked, fileOverrides_toList h]

theorem imageRefusal_eq_none_iff {im : Image} :
    imageRefusal im = none ↔
      ¬ (isBanked im.overrides = false ∧ im.loadAddr < 0x8000) ∧ im.songCount ≠ 0 ∧ im.expansion = 0 := by
  have hcond : (!isBanked im.overrides && decide (im.loadAddr < 0x8000)) = true ↔
      isBanked im.overrides = false ∧ im.loadAddr < 0x8000 := by
    rw [Bool.and_eq_true, Bool.not_eq_true', decide_eq_true_eq]
  rw [imageRefusal, ← hcond]
  split
  · exact ⟨nofun, fun ⟨hno, _, _⟩ => absurd ‹_› hno⟩
  · split
    · exact ⟨nofun, fun ⟨_, hno, _⟩ => absurd ‹_› hno⟩
    · split
      · exact ⟨nofun, fun ⟨_, _, hno⟩ => absurd hno ‹_›⟩
      · exact ⟨fun _ => ⟨‹_›, ‹_›, not_not.1 ‹_›⟩, fun _ => rfl⟩

/-- The files with a whole header whose image no rule refuses (R76, R77), in the bytes of the file. -/
theorem imageRefusal_imageOf {file : List Byte} (h : headerSize ≤ file.length) :
    imageRefusal (imageOf file) = none ↔
      ¬ ((∀ b ∈ (file.drop 0x70).take 8, b = 0) ∧ (file.getD 9 0 ++ file.getD 8 0 : Word) < 0x8000) ∧
        file.getD 6 0 ≠ 0 ∧ file.getD 0x7B 0 = 0 := by
  rw [imageRefusal_eq_none_iff, ← isBanked_eq_false_iff h]
  rfl

theorem load_unsigned {file : List Byte} (hsig : file.take 5 ≠ magic) (s : State) :
    load file s = .fault .formatError := by
  rw [load, if_pos hsig]

theorem load_refused {file : List Byte} (hsig : file.take 5 = magic)
    (h : headerSize ≤ file.length → imageRefusal (imageOf file) ≠ none) (s : State) :
    ∃ r, load file s = .refused r := by
  rw [load, if_neg (not_not.2 hsig)]
  by_cases hlen : file.length < headerSize
  · exact ⟨_, if_pos hlen⟩
  · obtain ⟨r, hr⟩ := Option.ne_none_iff_exists'.1 (h (not_lt.1 hlen))
    exact ⟨r, by rw [if_neg hlen, hr]⟩

theorem load_taken {file : List Byte} (hsig : file.take 5 = magic) (hlen : headerSize ≤ file.length)
    (h : imageRefusal (imageOf file) = none) (s : State) :
    load file s = .next { s with image := some (imageOf file), started := false } := by
  rw [load, if_neg (not_not.2 hsig), if_neg (not_lt.2 hlen), h]

/-- Everything a Load that succeeds can do: it takes the image of a signed file that no rule refuses. -/
theorem load_next {file : List Byte} {s t : State} (h : load file s = .next t) :
    file.take 5 = magic ∧ headerSize ≤ file.length ∧ imageRefusal (imageOf file) = none ∧
      t = { s with image := some (imageOf file), started := false } := by
  by_cases hsig : file.take 5 = magic
  · by_cases hok : headerSize ≤ file.length ∧ imageRefusal (imageOf file) = none
    · obtain ⟨hlen, him⟩ := hok
      exact ⟨hsig, hlen, him, (Host.Outcome.next.inj ((load_taken hsig hlen him s).symm.trans h)).symm⟩
    · obtain ⟨r, hr⟩ := load_refused hsig (fun hlen him => hok ⟨hlen, him⟩) s
      cases hr.symm.trans h
  · cases (load_unsigned hsig s).symm.trans h

/-- Settles O56: the three outcomes of Load, by the signature and the refusals of R76 and R77. -/
theorem loadFailsUnchanged : Obligations.LoadFailsUnchanged := by
  intro s file
  refine ⟨fun hsig => ?_, fun hsig hbad => ?_, fun hsig hlen hbelow hsongs hchip => ?_⟩
  · rw [hostStep, load_unsigned hsig]
  · have hrefused : headerSize ≤ file.length → imageRefusal (imageOf file) ≠ none := fun hlen hnone => by
      obtain ⟨hbelow, hsongs, hchip⟩ := (imageRefusal_imageOf hlen).1 hnone
      rcases hbad with hshort | hbad | hbad | hbad
      · exact absurd hlen (not_le.2 hshort)
      · exact hbelow hbad
      · exact hsongs hbad
      · exact hbad hchip
    obtain ⟨r, hr⟩ := load_refused hsig hrefused s
    exact ⟨r, by rw [hostStep, hr]⟩
  · exact ⟨_, by rw [hostStep, load_taken hsig hlen ((imageRefusal_imageOf hlen).2 ⟨hbelow, hsongs, hchip⟩)]⟩

/-- The number of zeroes that stand before a file's data in its pages (R73). -/
def dataStart (file : List Byte) : Nat :=
  prefixLength (isBanked (fileOverrides file)) (fileWord file 0x08)

theorem dataStart_banked {file : List Byte} (h : isBanked (fileOverrides file) = true) :
    dataStart file = (imageOf file).loadAddr.toNat % 0x1000 := by
  rw [dataStart, prefixLength, if_pos h, BitVec.toNat_and]
  exact Nat.and_two_pow_sub_one_eq_mod _ 12

/-- An image that is not banked starts at or above 0x8000, or it is refused (R76). -/
theorem dataStart_unbanked {file : List Byte} (hok : imageRefusal (imageOf file) = none)
    (h : isBanked (fileOverrides file) = false) : dataStart file + 0x8000 = (imageOf file).loadAddr.toNat := by
  obtain ⟨hbelow, -, -⟩ := imageRefusal_eq_none_iff.1 hok
  have hload : ¬ (imageOf file).loadAddr < 0x8000 := fun hlt => hbelow ⟨h, hlt⟩
  have hstart : dataStart file = (imageOf file).loadAddr.toNat - 0x8000 := by
    rw [dataStart, h, prefixLength, if_neg Bool.false_ne_true, imageOf]
  bv_omega

theorem pageByte_imageOf {s : State} {file : List Byte} (h : s.image = some (imageOf file)) (pg off : Nat) :
    s.pageByte pg off = if dataStart file ≤ 0x1000 * pg + off then
      (file.drop 0x80).getD (0x1000 * pg + off - dataStart file) 0 else 0 := by
  rw [State.pageByte, h]
  exact dataCells_read _ _ _

theorem imageOf_pages (file : List Byte) :
    dataStart file + (file.drop 0x80).length ≤ 0x1000 * (imageOf file).pageCount ∧ 1 ≤ (imageOf file).pageCount ∧
      (1 < (imageOf file).pageCount →
        0x1000 * ((imageOf file).pageCount - 1) < dataStart file + (file.drop 0x80).length) :=
  pagesFor_spec _

theorem imageOf_canonical {s : State} {file : List Byte} (h : s.image = some (imageOf file)) : ImageCanonical s := by
  intro im him
  obtain rfl : imageOf file = im := Option.some.inj (h.symm.trans him)
  refine ⟨dataCells_wf _ _, fun p hp => ?_⟩
  obtain ⟨-, hlt, -⟩ := dataCells_within hp
  exact lt_of_lt_of_le hlt (imageOf_pages file).1

/-- Settles O57: a loaded image is `imageOf` of its file, whose cells are the data from `dataStart` on. -/
theorem loadedPagesHoldTheData : Obligations.LoadedPagesHoldTheData := by
  intro s t file h
  obtain ⟨hsig, hlen, hok, rfl⟩ := load_next h
  obtain ⟨hfit, hone, hleast⟩ := imageOf_pages file
  refine ⟨hsig, hlen, imageOf file, rfl, rfl, rfl, rfl, rfl, rfl, rfl, rfl, rfl,
    fun k hk => fileOverrides_getElem file hk, rfl, dataStart file, fun hbanked => dataStart_banked ?_,
    fun hplain => dataStart_unbanked hok ?_, fun pg off _ => pageByte_imageOf rfl pg off, hfit, hone, hleast,
    imageOf_canonical rfl⟩
  · obtain ⟨b, hb, hne⟩ := hbanked
    by_contra hno
    exact hne ((isBanked_eq_false_iff hlen).1 (Bool.eq_false_of_not_eq_true hno) b hb)
  · refine (isBanked_eq_false_iff hlen).2 fun b hb => ?_
    by_contra hne
    exact hplain ⟨b, hb, hne⟩

end Sys2Proof.Machine
end

section
/-! PROOFS. The statements about the encoding (30_encoding.md): the decoder inverts the encoder and the encoder the
decoder (R90 to R95), every byte value has its row or is unsupported (R96, R97), and the instruction that
`withFetchWord` places is the one the next fetch reads (log entry 6). -/

namespace Sys2Proof

/-! ### What a row of the table makes of operand bytes -/

/-- The instruction that a format makes at operand byte `b` or operand word `w`, whichever it takes (R90). -/
def Form.instr (b : Byte) (w : Word) : Form → Instr
  | .f1 i => i
  | .f2 mk => mk b
  | .f3 mk => mk w

/-- The operand bytes of that instruction, low byte first (R92). -/
def Form.operandBytes (b : Byte) (w : Word) : Form → List Byte
  | .f1 _ => []
  | .f2 _ => [b]
  | .f3 _ => [lowByte w, highByte w]

/-- The table read row by row: at every operand value the instruction of a row has the row's opcode, mnemonic and mode,
and the operand bytes of the row's format (R95). -/
theorem row_instr {r : Row} (hr : r ∈ opcodeTable) (b : Byte) (w : Word) :
    (r.form.instr b w).opcode = r.opcode ∧ (r.form.instr b w).mnemonic = r.mnemonic ∧
      (r.form.instr b w).operand.mode = r.mode ∧ (r.form.instr b w).operand.bytes = r.form.operandBytes b w := by
  have htable : opcodeTable.map (fun r => ((r.form.instr b w).opcode, (r.form.instr b w).mnemonic,
      (r.form.instr b w).operand.mode, (r.form.instr b w).operand.bytes)) =
      opcodeTable.map (fun r => (r.opcode, r.mnemonic, r.mode, r.form.operandBytes b w)) := rfl
  simpa only [Prod.mk.injEq] using List.map_inj_left.1 htable r hr

/-- A format makes an instruction exactly from the operand bytes of that instruction. -/
theorem Form.make_eq_some {f : Form} {bs : List Byte} {i : Instr} (h : f.make bs = some i) :
    ∃ b w, f.instr b w = i ∧ f.operandBytes b w = bs := by
  cases f with
  | f1 j =>
    match bs with
    | [] => exact ⟨0, 0, Option.some.inj h, rfl⟩
  | f2 mk =>
    match bs with
    | [b] => exact ⟨b, 0, Option.some.inj h, rfl⟩
  | f3 mk =>
    match bs with
    | [b1, b2] =>
      exact ⟨0, wordOf b1 b2, Option.some.inj h, by rw [Form.operandBytes, lowByte_wordOf, highByte_wordOf]⟩

/-- What a row makes is an instruction of the row, whose operand bytes are the ones it was made from. -/
theorem row_of_make {r : Row} (hr : r ∈ opcodeTable) {bs : List Byte} {i : Instr} (hm : r.form.make bs = some i) :
    i.opcode = r.opcode ∧ i.mnemonic = r.mnemonic ∧ i.operand.mode = r.mode ∧ i.operand.bytes = bs := by
  obtain ⟨b, w, rfl, rfl⟩ := Form.make_eq_some hm
  exact row_instr hr b w

/-- Two bytes are enough for every format (R90). -/
theorem Form.make_total (f : Form) (b1 b2 : Byte) :
    ∃ bs rest i, [b1, b2] = bs ++ rest ∧ f.make bs = some i := by
  cases f with
  | f1 i => exact ⟨[], [b1, b2], i, rfl, rfl⟩
  | f2 mk => exact ⟨[b1], [b2], mk b1, rfl, rfl⟩
  | f3 mk => exact ⟨[b1, b2], [], mk (wordOf b1 b2), rfl, rfl⟩

/-! ### The decoder -/

/-- The only way the decoder answers an instruction: the row of the first byte makes it of the bytes that follow. -/
theorem decode_ok {bytes rest : List Byte} {i : Instr} (h : decode bytes = .ok (i, rest)) :
    ∃ op r bs, findRow op = some r ∧ r.form.make bs = some i ∧ bytes = op :: (bs ++ rest) := by
  match bytes with
  | [] => cases h
  | op :: tail =>
    cases hrow : findRow op with
    | none => rw [decode_unsupported hrow] at h; cases h
    | some r =>
      refine ⟨op, r, ?_⟩
      simp only [decode, hrow] at h
      split at h
      case h_1 j _ hf => cases h; exact ⟨[], hrow, by rw [hf]; rfl, rfl⟩
      case h_2 mk b1 _ hf => cases h; exact ⟨[b1], hrow, by rw [hf]; rfl, rfl⟩
      case h_3 mk b1 b2 _ hf => cases h; exact ⟨[b1, b2], hrow, by rw [hf]; rfl, rfl⟩
      case h_4 => cases h

theorem decode_encode (i : Instr) (rest : List Byte) : decode (encode i ++ rest) = .ok (i, rest) := by
  obtain ⟨r, hrow, -, -, hmake⟩ := Machine.opcodeRow i
  exact decode_row hrow hmake

theorem encode_decode {bytes rest : List Byte} {i : Instr} (h : decode bytes = .ok (i, rest)) :
    bytes = encode i ++ rest := by
  obtain ⟨op, r, bs, hrow, hmake, rfl⟩ := decode_ok h
  obtain ⟨hmem, rfl⟩ := mem_of_findRow hrow
  obtain ⟨hop, -, -, hbytes⟩ := row_of_make hmem hmake
  rw [encode, hop, hbytes, List.cons_append]

/-- Settles O1: `opcodeRow` gives each instruction its row, and `row_of_make` each row's instructions their bytes. -/
theorem decodeInvertsEncode : Obligations.DecodeInvertsEncode :=
  ⟨decode_encode, fun _ _ _ => encode_decode⟩

/-- Settles O2: each of the words is the encoding of its instruction. -/
theorem wordsDecodeAsTabled : Obligations.WordsDecodeAsTabled :=
  ⟨decode_encode .inx [], decode_encode .aslAcc [], decode_encode (.ldaImm 0x10) [], decode_encode (.ldxZpy 0x10) [],
    decode_encode (.ldaAbs 0x1234) [], decode_encode (.staAbs 0x4000) [], decode_encode (.jmpInd 0x0200) [],
    decode_encode (.ldaIndy 0x20) [], decode_encode (.bne 0xFB) [], decode_encode .pha [],
    decode_encode (.adcIndx 0x20) [], decode_encode (.jsr 0x9000) [], decode_encode .sec [], decode_encode .nop []⟩

/-! ### Opcodes and lengths (R91, R96, R97) -/

/-- The decoder answers an instruction of the row that an opcode has, whatever two bytes follow. -/
theorem decode_of_row {op : Byte} {r : Row} (hrow : findRow op = some r) (b1 b2 : Byte) :
    ∃ i rest, decode [op, b1, b2] = .ok (i, rest) ∧ i.opcode = op ∧ i.mnemonic = r.mnemonic ∧
      i.operand.mode = r.mode := by
  obtain ⟨hmem, rfl⟩ := mem_of_findRow hrow
  obtain ⟨bs, rest, i, hsplit, hmake⟩ := r.form.make_total b1 b2
  obtain ⟨hop, hmn, hmode, -⟩ := row_of_make hmem hmake
  exact ⟨i, rest, hsplit ▸ decode_row hrow hmake, hop, hmn, hmode⟩

/-- No two rows have one opcode, so the row that is found is the only one. -/
theorem row_unique {op : Byte} {r q : Row} (hrow : findRow op = some r) (hq : q ∈ opcodeTable) (hop : q.opcode = op) :
    q = r :=
  Option.some.inj ((findRow_of_mem hq).symm.trans (hop ▸ hrow))

/-- R96's 105 opcodes. -/
theorem unsupported_count :
    ((List.range 256).filter (fun k => (findRow (BitVec.ofNat 8 k)).isNone)).length = 105 := by
  decide +kernel

theorem encode_length (i : Instr) : (encode i).length = i.operand.mode.length := by
  rw [encode, List.length_cons]
  cases i.operand <;> rfl

theorem opcodeLength_opcode (i : Instr) : opcodeLength i.opcode = some (encode i).length := by
  obtain ⟨r, hrow, -, hmode, -⟩ := Machine.opcodeRow i
  rw [opcodeLength, hrow, encode_length, ← hmode]
  rfl

/-- The lengths of R91, mode by mode. -/
theorem Mode.length_cases (m : Mode) :
    (m ∈ [.imp, .acc] → m.length = 1) ∧ (m ∈ [.imm, .zp, .zpx, .zpy, .rel, .indx, .indy] → m.length = 2) ∧
      (m ∈ [.abs, .absx, .absy, .ind] → m.length = 3) := by
  cases m <;> decide

/-- Settles O3: an opcode has a row, the only one, or none. -/
theorem everyByteDecodesOrIsUnsupported : Obligations.EveryByteDecodesOrIsUnsupported := by
  refine ⟨fun op b1 b2 => ?_, unsupported_count, fun i =>
    ⟨_, rfl, opcodeLength_opcode i, encode_length i ▸ i.operand.mode.length_cases⟩⟩
  cases hrow : findRow op with
  | some r =>
    obtain ⟨hmem, hop⟩ := mem_of_findRow hrow
    refine .inl ⟨r, hmem, hop, fun q hq hqop => ?_, decode_of_row hrow b1 b2⟩
    rw [row_unique hrow hq hqop]
    exact ⟨rfl, rfl⟩
  | none => exact .inr ⟨findRow_none.1 hrow, decode_unsupported hrow _⟩

end Sys2Proof

namespace Sys2Proof.Machine

/-! ### The fetch of bytes that stand at PC (R110, R231) -/

theorem fetchOperands_cons {s : State} {a : Word} {n : Nat} {b : Byte} {bs : List Byte} :
    s.fetchOperands a (n + 1) = .ok (b :: bs) ↔ s.memRead a = .ok b ∧ s.fetchOperands (a + 1) n = .ok bs := by
  rw [State.fetchOperands]
  cases s.memRead a with
  | error f => simp
  | ok c => cases s.fetchOperands (a + 1) n <;> simp

/-- Where bytes stand in memory, so does each first part of them. -/
theorem fetchOperands_append_left {s : State} {a : Word} {bs rest : List Byte}
    (h : s.fetchOperands a (bs ++ rest).length = .ok (bs ++ rest)) : s.fetchOperands a bs.length = .ok bs := by
  induction bs generalizing a with
  | nil => rfl
  | cons b bs ih =>
    obtain ⟨hb, hbs⟩ := fetchOperands_cons.1 h
    exact fetchOperands_cons.2 ⟨hb, ih hbs⟩

/-- A core whose bytes at PC are the encoding of an instruction fetches that instruction. -/
theorem fetch_encode {s : State} {i : Instr} (h : s.fetchOperands s.pc (encode i).length = .ok (encode i)) :
    s.fetch = .ok i := by
  obtain ⟨hop, hbytes⟩ := fetchOperands_cons.1 h
  have hdecode : decode (i.opcode :: i.operand.bytes) = .ok (i, []) := by
    simpa [encode] using decode_encode i []
  simp only [State.fetch, hop, opcodeLength_opcode, encode, List.length_cons, Nat.add_sub_cancel, hbytes, hdecode]

/-! ### Placed bytes (log entry 6) -/

/-- Byte `v` stands at address `a`: in RAM, or in a page of the image that the window of `a` shows (R55). -/
def State.Holds (s : State) (a : Word) (v : Byte) : Prop :=
  (a < 0x8000 ∧ s.ramRead a = v) ∨
    (¬ a < 0x8000 ∧ s.pageOf a < s.pageCount ∧ s.pageByte (s.pageOf a) (a.toNat % 0x1000) = v)

theorem State.Holds.memRead {s : State} {a : Word} {v : Byte} (h : s.Holds a v) : s.memRead a = .ok v := by
  rcases h with ⟨ha, rfl⟩ | ⟨ha, hpage, rfl⟩
  · exact memRead_low ha
  · rw [State.memRead, if_neg ha, if_pos hpage, pageOffset_toNat]

variable {s : State} {a b : Word} {u v : Byte}

theorem place_low (ha : a < 0x8000) : s.place a v = s.ramWrite a v :=
  if_pos ha

@[simp] theorem place_pc : (s.place a v).pc = s.pc := by
  unfold State.place; split <;> rfl

@[simp] theorem place_cfg : (s.place a v).cfg = s.cfg := by
  unfold State.place; split <;> rfl

@[simp] theorem place_pageOf : (s.place a v).pageOf b = s.pageOf b := by
  unfold State.place; split <;> rfl

/-- A byte placed above RAM leaves RAM. -/
theorem place_high_ramRead (ha : ¬ a < 0x8000) : (s.place a v).ramRead b = s.ramRead b := by
  rw [State.place, if_neg ha]
  rfl

/-- The bytes of the pages after a byte is placed above RAM; with no image loaded they are the blank image's. -/
theorem place_high_pageByte (ha : ¬ a < 0x8000) (pg off : Nat) :
    (s.place a v).pageByte pg off =
      ((s.image.getD Image.blank).rom.write (pageSize * s.pageOf a + a.toNat % 0x1000) v).read
        (pageSize * pg + off) := by
  rw [State.place, if_neg ha, ← pageOffset_toNat]
  rfl

theorem place_high_pageCount (ha : ¬ a < 0x8000) :
    (s.place a v).pageCount = max (s.image.getD Image.blank).pageCount (s.pageOf a + 1) := by
  rw [State.place, if_neg ha]
  rfl

theorem pageByte_getD (s : State) (pg off : Nat) :
    s.pageByte pg off = (s.image.getD Image.blank).rom.read (pageSize * pg + off) := by
  rw [State.pageByte]
  cases s.image <;> rfl

/-- Placing a byte above RAM drops no page. -/
theorem pageCount_le_place (ha : ¬ a < 0x8000) : s.pageCount ≤ (s.place a v).pageCount := by
  rw [place_high_pageCount ha, State.pageCount]
  cases s.image with
  | none => exact Nat.zero_le _
  | some im => exact le_max_left _ _

/-- A placed byte stands where it was placed. -/
theorem place_holds (hr : RamCanonical s) (hi : ImageCanonical s) : (s.place a v).Holds a v := by
  by_cases ha : a < 0x8000
  · refine .inl ⟨ha, ?_⟩
    rw [place_low ha, State.ramRead, State.ramWrite_ram, State.ramWrite_cfg, Memory.read_write _ _ _ _ hr.1.1,
      if_pos rfl]
  · have hrom : (s.image.getD Image.blank).rom.wf := by
      cases him : s.image with
      | none => exact ⟨List.Pairwise.nil, fun _ hp => nomatch hp⟩
      | some im => exact (hi im him).1
    refine .inr ⟨ha, ?_, ?_⟩
    · rw [place_pageOf, place_high_pageCount ha]
      exact lt_max_of_lt_right (Nat.lt_succ_self _)
    · rw [place_pageOf, place_high_pageByte ha, Memory.read_write _ _ _ _ hrom.1, if_pos rfl]

/-- Two addresses at most two apart are different cells of RAM, whose size is above two (R8). -/
theorem ramIndex_ne (hc : s.cfg.Facts) (hab : a = b + 1 ∨ a = b + 2) (ha : a < 0x8000) (hb : b < 0x8000) :
    b.toNat % s.cfg.ramSize ≠ a.toNat % s.cfg.ramSize := by
  intro heq
  have hlt : b.toNat < a.toNat ∧ a.toNat - b.toNat ≤ 2 := by bv_omega
  have hle : s.cfg.ramSize ≤ a.toNat - b.toNat :=
    Nat.le_of_dvd (by omega) (Nat.dvd_of_mod_eq_zero (Nat.sub_mod_eq_zero_of_mod_eq heq.symm))
  have := hc.ramSize
  omega

/-- A byte placed one or two addresses on leaves a byte that stands in memory: nowhere do two such addresses show one
cell, neither in RAM nor in pages, where their offsets differ. -/
theorem State.Holds.place (h : s.Holds b u) (hc : s.cfg.Facts) (hab : a = b + 1 ∨ a = b + 2) :
    (s.place a v).Holds b u := by
  by_cases ha : a < 0x8000
  · rw [place_low ha]
    rcases h with ⟨hb, hu⟩ | hhigh
    · refine .inl ⟨hb, ?_⟩
      rw [State.ramRead, State.ramWrite_ram, State.ramWrite_cfg, Memory.read_write_ne _ _ (ramIndex_ne hc hab ha hb)]
      exact hu
    · exact .inr hhigh
  · rcases h with ⟨hb, hu⟩ | ⟨hb, hpage, hu⟩
    · exact .inl ⟨hb, (place_high_ramRead ha).trans hu⟩
    · refine .inr ⟨hb, ?_, ?_⟩
      · rw [place_pageOf]
        exact lt_of_lt_of_le hpage (pageCount_le_place ha)
      · have hne : pageSize * s.pageOf b + b.toNat % 0x1000 ≠ pageSize * s.pageOf a + a.toNat % 0x1000 := by
          have hoff : b.toNat % 0x1000 ≠ a.toNat % 0x1000 := by bv_omega
          unfold pageSize
          omega
        rw [place_pageOf, place_high_pageByte ha, Memory.read_write_ne _ _ hne, ← pageByte_getD]
        exact hu

/-- The three bytes that `placeInstr` places stand at PC, in order. -/
theorem placeInstr_fetchOperands (hc : s.cfg.Facts) (hr : RamCanonical s) (hi : ImageCanonical s) (b0 b1 b2 : Byte) :
    (s.placeInstr (b0, b1, b2)).fetchOperands s.pc 3 = .ok [b0, b1, b2] := by
  obtain ⟨hr1, hi1⟩ := place_canonical hc hr hi s.pc b0
  have hc1 : (s.place s.pc b0).cfg.Facts := place_cfg (s := s) ▸ hc
  obtain ⟨hr2, hi2⟩ := place_canonical hc1 hr1 hi1 (s.pc + 1) b1
  have hc2 : ((s.place s.pc b0).place (s.pc + 1) b1).cfg.Facts := place_cfg (s := s.place s.pc b0) ▸ hc1
  have hread : (s.placeInstr (b0, b1, b2)).memRead =
      (((s.place s.pc b0).place (s.pc + 1) b1).place (s.pc + 2) b2).memRead :=
    funext (memRead_congr rfl rfl rfl rfl)
  have hpc : s.pc + 1 + 1 = s.pc + 2 := by bv_omega
  refine fetchOperands_cons.2 ⟨?_, fetchOperands_cons.2 ⟨?_, fetchOperands_cons.2 ⟨?_, rfl⟩⟩⟩ <;> rw [hread]
  · exact (((place_holds hr hi).place hc1 (.inl rfl)).place hc2 (.inr rfl)).memRead
  · exact ((place_holds hr1 hi1).place hc2 (.inl hpc.symm)).memRead
  · rw [hpc]
    exact (place_holds hr2 hi2).memRead

theorem placeInstr_pc (bs : Byte × Byte × Byte) : (s.placeInstr bs).pc = s.pc := by
  simp [State.placeInstr]

/-- A table word that decodes is the encoding of its instruction, at the start of the three bytes. -/
theorem tableBytes_encode {nbits w : Nat} {i : Instr} (h : decodeTableWord nbits w = some i) :
    ∃ b0 b1 b2 rest, tableBytes nbits w = (b0, b1, b2) ∧ [b0, b1, b2] = encode i ++ rest := by
  rw [decodeTableWord] at h
  split at h
  case h_1 j rest hdec =>
    cases h
    exact ⟨_, _, _, rest, rfl, encode_decode hdec⟩
  case h_2 => cases h

/-- Settles O8: the placed bytes stand at PC, and they begin with the encoding of the instruction. -/
theorem placedInstructionIsFetched : Obligations.PlacedInstructionIsFetched := by
  intro s nbits w i hcfg hr hi hdec
  obtain ⟨b0, b1, b2, rest, hbytes, henc⟩ := tableBytes_encode hdec
  have hplaced := placeInstr_fetchOperands (Config.facts hcfg) hr hi b0 b1 b2
  rw [State.withFetchWord, hbytes]
  refine ⟨fetch_encode (fetchOperands_append_left (rest := rest) ?_), placeInstr_pc _, rfl, rfl, rfl⟩
  rw [placeInstr_pc, ← henc]
  exact hplaced

end Sys2Proof.Machine
end

section
/-! PROOFS. The statements about addressing (40_addressing.md): the branches (R123, R204 to R211, R232), the location and
the page-cross flag of every addressing mode with the clocks of every other instruction (R111 to R125, R230, R233), and
that only the stores and the pushes change memory (R61, R125). -/

namespace Sys2Proof.Machine

/-! ### The pages of two addresses (R120 to R124) -/

theorem highByte_toNat (w : Word) : (highByte w).toNat = w.toNat / 256 := by
  have := w.isLt
  simp only [highByte, BitVec.toNat_setWidth, BitVec.toNat_ushiftRight, Nat.shiftRight_eq_div_pow]
  omega

theorem highByte_eq_extractLsb' (w : Word) : highByte w = w.extractLsb' 8 8 := by
  have := w.isLt
  apply BitVec.eq_of_toNat_eq
  rw [highByte_toNat, BitVec.extractLsb'_toNat, Nat.shiftRight_eq_div_pow]
  omega

theorem highByte_inj_iff_shift {a b : Word} : highByte a = highByte b ↔ a >>> 8 = b >>> 8 := by
  simp only [← BitVec.toNat_inj, highByte_toNat, BitVec.toNat_ushiftRight, Nat.shiftRight_eq_div_pow, Nat.reducePow]

theorem pagesDiffer_eq_decide (a b : Word) : pagesDiffer a b = decide (highByte a ≠ highByte b) :=
  decide_not.symm

theorem pagesDiffer_extract (a b : Word) : pagesDiffer a b = decide (a.extractLsb' 8 8 ≠ b.extractLsb' 8 8) := by
  rw [pagesDiffer_eq_decide, highByte_eq_extractLsb', highByte_eq_extractLsb']

theorem pagesDiffer_shift (a b : Word) : pagesDiffer a b = decide (a >>> 8 ≠ b >>> 8) := by
  rw [pagesDiffer_eq_decide]
  exact decide_eq_decide.2 (not_congr highByte_inj_iff_shift)

/-! ### The branches (R123, R204 to R211, R232) -/

/-- The clocks of a branch: R95's two, and what R232 adds to them. -/
theorem two_add_branchExtra (timing : BranchTiming) (taken cross : Bool) :
    2 + branchExtra timing taken cross = if timing = .flat ∨ taken = false then 2 else if cross then 4 else 3 := by
  cases timing with
  | flat => rfl
  | standard => revert taken cross; decide

/-- A branch moves PC, takes its clocks and the pending stall, and changes nothing else. -/
theorem branch_next (s : State) (taken : Bool) (r : Byte) :
    let next : Word := s.pc + 2
    let target : Word := next + r.signExtend 16
    s.branch 2 taken r = .next { s with
      pc := if taken then target else next
      cost := (if s.cfg.branchTiming = .flat ∨ taken = false then 2
        else if decide (next >>> 8 ≠ target >>> 8) then 4 else 3) + s.apu.dmc.stallPending
      apu := { s.apu with dmc := { s.apu.dmc with stallPending := 0 } } } := by
  intro next target
  have hcross : branchCross s.pc r = decide (next >>> 8 ≠ target >>> 8) := pagesDiffer_shift next target
  rw [State.branch, two_add_branchExtra, hcross]
  rfl

/-- Settles O21: each branch is the branch of R123 on its own condition. -/
theorem branchesFollowTheirCondition : Obligations.BranchesFollowTheirCondition := by
  refine ⟨encodedAs_of_rows (by decide +kernel), encodedAs_of_rows (by decide +kernel),
    encodedAs_of_rows (by decide +kernel), encodedAs_of_rows (by decide +kernel),
    encodedAs_of_rows (by decide +kernel), encodedAs_of_rows (by decide +kernel),
    encodedAs_of_rows (by decide +kernel), encodedAs_of_rows (by decide +kernel), fun s r => ?_⟩
  intro next target cross p hp
  have hexec : exec p.1 s = s.branch 2 p.2 r := by
    simp only [List.mem_cons, List.not_mem_nil, or_false] at hp
    rcases hp with rfl | rfl | rfl | rfl | rfl | rfl | rfl | rfl <;> rfl
  exact hexec.trans (branch_next s p.2 r)

/-! ### The addressing modes (R111 to R122) -/

theorem ramRead_zeroPage (s : State) (z : Byte) : s.ramRead (zeroPage z) = s.ram.read (z.toNat % s.cfg.ramSize) := by
  rw [State.ramRead, zeroPage, BitVec.toNat_setWidth_of_le (by decide)]

/-- Both bytes of a zero-page pointer stand in page zero (R119, R120). -/
theorem pointer_eq (s : State) (z : Byte) :
    s.pointer z = s.ram.read ((z + 1).toNat % s.cfg.ramSize) ++ s.ram.read (z.toNat % s.cfg.ramSize) := by
  rw [State.pointer, ramRead_zeroPage, ramRead_zeroPage, wordOf]

theorem indexed_eq (base : Word) (index : Byte) :
    indexed base index = ⟨.mem (base + index.setWidth 16),
      decide (base.extractLsb' 8 8 ≠ (base + index.setWidth 16).extractLsb' 8 8)⟩ :=
  congrArg (Resolved.mk _) (pagesDiffer_extract _ _)

theorem resolve_indx (s : State) (z : Byte) :
    s.resolve (.indx z) = ⟨.mem (s.ram.read ((z + s.x + 1).toNat % s.cfg.ramSize) ++
      s.ram.read ((z + s.x).toNat % s.cfg.ramSize)), false⟩ := by
  rw [State.resolve, pointer_eq]

theorem resolve_indy (s : State) (z : Byte) :
    s.resolve (.indy z) = indexed (s.ram.read ((z + 1).toNat % s.cfg.ramSize) ++
      s.ram.read (z.toNat % s.cfg.ramSize)) s.y := by
  rw [State.resolve, pointer_eq]

/-! ### The clocks of an instruction (R230, R233, R420) -/

/-- From `s` the instruction costs the clocks of its row, one more for a page crossing that its row counts, and the stall
that was pending, which it takes (R230, R233). -/
def CostsItsRow (i : Instr) (s t : State) : Prop :=
  t.cost = i.baseClocks + (if i.pageCross ∧ (s.resolve i.operand).cross then 1 else 0) + s.apu.dmc.stallPending ∧
  t.apu.dmc.stallPending = 0

theorem completed_costsItsRow (i : Instr) (s t : State) : CostsItsRow i s (State.completed i s t) := by
  refine ⟨?_, rfl⟩
  show i.baseClocks + Instr.extraClocks i s + s.apu.dmc.stallPending = _
  simp only [Instr.extraClocks, Bool.and_eq_true]

/-- A transfer of control, whose row counts no page crossing, costs the clocks of its row. -/
theorem charge_costsItsRow {i : Instr} {s u : State} {n : Nat} (hn : i.baseClocks = n) (hx : i.pageCross = false)
    (hst : u.apu.dmc.stallPending = s.apu.dmc.stallPending) : CostsItsRow i s (u.charge n) := by
  refine ⟨?_, rfl⟩
  show n + u.apu.dmc.stallPending = _
  simp only [hn, hx, hst, Bool.false_eq_true, false_and, if_false, Nat.add_zero]

/-- Every instruction that is no branch costs what its row says. -/
theorem exec_costsItsRow {i : Instr} {s t : State} (h : exec i s = .next t) (hm : i.operand.mode ≠ .rel) :
    CostsItsRow i s t := by
  refine exec_next_holds (P := fun i s t => i.operand.mode ≠ .rel → CostsItsRow i s t) ?read ?arith ?store ?modify
    ?implied ?branch ?jmp ?ind ?jsr ?rts ?rti ?brk h hm
  case read => exact fun _ _ _ _ _ _ _ => completed_costsItsRow ..
  case arith => exact fun _ _ _ _ _ _ _ _ => completed_costsItsRow ..
  case store => exact fun _ _ _ _ _ _ _ => completed_costsItsRow ..
  case modify => exact fun _ _ _ _ _ _ _ _ _ => completed_costsItsRow ..
  case implied => exact fun _ _ _ _ _ => completed_costsItsRow ..
  case branch =>
    intro i s e r _ ho n w hrel
    rw [ho] at hrel
    exact absurd rfl hrel
  case jmp => exact fun _ _ _ => charge_costsItsRow rfl rfl rfl
  case ind => exact fun _ _ _ _ _ => charge_costsItsRow rfl rfl rfl
  case jsr => exact fun _ _ _ => charge_costsItsRow rfl rfl rfl
  case rts => exact fun _ _ => charge_costsItsRow rfl rfl rfl
  case rti =>
    intro s t ht _
    cases ht
    exact charge_costsItsRow rfl rfl rfl
  case brk => exact fun _ _ _ _ _ => charge_costsItsRow rfl rfl rfl

/-- Settles O24: mode by mode, what it resolves to; then class by class, what its instructions cost. -/
theorem costIsTheTabledCost : Obligations.CostIsTheTabledCost := by
  refine ⟨fun s v z w => ?_, fun i s t h hm => exec_costsItsRow h hm⟩
  exact ⟨rfl, rfl, rfl, rfl, rfl, rfl, rfl, indexed_eq w s.x, indexed_eq w s.y, resolve_indx s z,
    (resolve_indy s z).trans (indexed_eq _ s.y), rfl, rfl, rfl, rfl, rfl, rfl, rfl⟩

/-! ### Only the stores and the pushes change memory (R61, R125) -/

/-- RAM and the page selection are the same in `s` and `t`, and the APU is but for the pending stall. -/
structure SameMemory (s t : State) : Prop where
  ram : t.ram = s.ram
  select : t.select = s.select
  apu : sameButStall s.apu t.apu

/-- The completion of an instruction touches no memory, and of the APU only the pending stall. -/
theorem SameMemory.completed {s t : State} (h : SameMemory s t) (i : Instr) : SameMemory s (State.completed i s t) :=
  ⟨h.ram, h.select, h.apu.trans rfl⟩

theorem SameMemory.transferred {s t : State} (h : SameMemory s t) (w : Word) (n : Nat) :
    SameMemory s ({ t with pc := w }.charge n) :=
  ⟨h.ram, h.select, h.apu.trans rfl⟩

theorem SameMemory.refl (s : State) : SameMemory s s :=
  ⟨rfl, rfl, rfl⟩

theorem readEffect_sameMemory {m : Mnemonic} {e : Byte → State → State} (h : readEffect m = some e) (v : Byte)
    (s : State) : SameMemory s (e v s) := by
  cases m <;> cases h <;> exact ⟨rfl, rfl, rfl⟩

theorem arithEffect_sameMemory {m : Mnemonic} {e : Byte → State → State} (h : arithEffect m = some e) (v : Byte)
    (s : State) : SameMemory s (e v s) := by
  cases m <;> cases h <;> exact ⟨rfl, rfl, rfl⟩

/-- The mnemonics that store or push (R27, R125). -/
def storing : List Mnemonic :=
  [.sta, .stx, .sty, .pha, .php, .jsr, .brk]

/-- Of the instructions with no operand, only PHA and PHP touch memory. -/
theorem impliedEffect_sameMemory {m : Mnemonic} {e : State → State} (h : impliedEffect m = some e)
    (hm : m ∉ storing) (s : State) : SameMemory s (e s) := by
  cases m <;> cases h <;> first
    | exact ⟨rfl, rfl, rfl⟩
    | exact absurd (by decide) hm

theorem mem_storing_of_storedRegister {m : Mnemonic} {e : State → Byte} (h : storedRegister m = some e) :
    m ∈ storing := by
  cases m <;> first | (cases h; done) | decide

theorem mem_of_modifyEffect {m : Mnemonic} {e : (Bool → Byte → Byte) × (Bool → Byte → Bool)}
    (h : modifyEffect m = some e) : m ∈ [.inc, .dec, .asl, .lsr, .rol, .ror] := by
  cases m <;> first | (cases h; done) | decide

/-- A read-modify-write on the accumulator reaches no memory. -/
theorem writeLoc_acc_sameMemory {s t : State} {r : Byte} {f : Flags}
    (h : State.writeLoc .acc r { s with flags := f } = .ok t) (g : Flags) : SameMemory s { t with flags := g } := by
  cases h
  exact ⟨rfl, rfl, rfl⟩

/-- An instruction that writes no byte: it neither stores nor pushes, and it is no read-modify-write but one of those on
the accumulator. -/
def WritesNoByte (i : Instr) : Prop :=
  i.mnemonic ∉ storing ∧
  (i.mnemonic ∈ [.inc, .dec, .asl, .lsr, .rol, .ror] → i.operand = .acc)

theorem exec_sameMemory {i : Instr} {s t : State} (h : exec i s = .next t) (hi : WritesNoByte i) : SameMemory s t := by
  refine exec_next_holds (P := fun i s t => WritesNoByte i → SameMemory s t) ?read ?arith ?store ?modify ?implied
    ?branch ?jmp ?ind ?jsr ?rts ?rti ?brk h hi
  case read => exact fun i s e m he _ _ => (readEffect_sameMemory he m s).completed i
  case arith => exact fun i s e m he _ _ _ => (arithEffect_sameMemory he m s).completed i
  case store =>
    intro i s e u he _ ⟨hno, _⟩
    exact absurd (mem_storing_of_storedRegister he) hno
  case modify =>
    intro i s e v u he _ hu ⟨_, hacc⟩
    rw [hacc (mem_of_modifyEffect he)] at hu
    exact (writeLoc_acc_sameMemory hu _).completed i
  case implied =>
    intro i s e he ⟨hno, _⟩
    exact (impliedEffect_sameMemory he hno s).completed i
  case branch => exact fun _ s _ _ _ _ n w _ => (SameMemory.refl s).transferred w n
  case jmp => exact fun w s _ => (SameMemory.refl s).transferred w 3
  case ind => exact fun _ s u _ _ => (SameMemory.refl s).transferred u 5
  case jsr => exact fun w s ⟨hno, _⟩ => absurd (show Mnemonic.jsr ∈ storing by decide) hno
  case rts => exact fun _ _ => ⟨rfl, rfl, rfl⟩
  case rti =>
    intro s t ht _
    cases ht
    exact ⟨rfl, rfl, rfl⟩
  case brk => exact fun s w _ _ ⟨hno, _⟩ => absurd (show Mnemonic.brk ∈ storing by decide) hno

theorem writeLoc_frameClock {s t : State} {l : Loc} {r : Byte} (h : s.writeLoc l r = .ok t) :
    t.frameClock = s.frameClock := by
  rcases writeLoc_cases h with rfl | ⟨-, rfl⟩ | ⟨ea, -, hw⟩
  · rfl
  · rfl
  · rw [memWrite_frame hw]

theorem readEffect_frameClock {m : Mnemonic} {e : Byte → State → State} (h : readEffect m = some e) (v : Byte)
    (s : State) : (e v s).frameClock = s.frameClock := by
  cases m <;> cases h <;> rfl

theorem arithEffect_frameClock {m : Mnemonic} {e : Byte → State → State} (h : arithEffect m = some e) (v : Byte)
    (s : State) : (e v s).frameClock = s.frameClock := by
  cases m <;> cases h <;> rfl

theorem impliedEffect_frameClock {m : Mnemonic} {e : State → State} (h : impliedEffect m = some e) (s : State) :
    (e s).frameClock = s.frameClock := by
  cases m <;> cases h <;> rfl

theorem trapFrame_frameClock (s : State) : s.trapFrame.frameClock = s.frameClock := by
  simp only [State.trapFrame, State.push_frameClock, State.push16_frameClock]

/-- No instruction touches the clock of the play driver (R37, R345). -/
theorem exec_frameClock {i : Instr} {s t : State} (h : exec i s = .next t) : t.frameClock = s.frameClock := by
  refine exec_next_holds (P := fun _ s t => t.frameClock = s.frameClock) ?read ?arith ?store ?modify ?implied ?branch
    ?jmp ?ind ?jsr ?rts ?rti ?brk h
  case read => exact fun _ s _ m he _ => readEffect_frameClock he m s
  case arith => exact fun _ s _ m he _ _ => arithEffect_frameClock he m s
  case store =>
    intro i s e u _ hu
    have hw := writeLoc_frameClock hu
    exact hw
  case modify =>
    intro i s e v u _ _ hu
    have hw := writeLoc_frameClock hu
    exact hw
  case implied => exact fun _ s _ he => impliedEffect_frameClock he s
  case branch => exact fun _ _ _ _ _ _ _ _ => rfl
  case jmp => exact fun _ _ => rfl
  case ind => exact fun _ _ _ _ => rfl
  case jsr => exact fun _ _ => rfl
  case rts => exact fun _ => rfl
  case rti =>
    intro s t ht
    cases ht
    rfl
  case brk => exact fun s _ _ _ => trapFrame_frameClock s

/-- Settles O27: the classes that reach no write, and what every class keeps. -/
theorem onlyStoresChangeMemory : Obligations.OnlyStoresChangeMemory := by
  intro i s t h
  have hk : Keeps s t := exec_keeps h
  refine ⟨fun hno hacc => ?_, hk.fault, hk.debt, exec_frameClock h, hk.playing, hk.currentSong, hk.cfg, hk.image,
    hk.started⟩
  have hm : SameMemory s t := exec_sameMemory h ⟨hno, hacc⟩
  exact ⟨memRead_congr hm.ram hm.select hk.cfg hk.image, hm.ram, hm.select, hm.apu⟩

end Sys2Proof.Machine
end

section
/-! PROOFS. The statements about the loads, the stores and the transfers (41_load_store_transfer.md): their encodings and
results (R130 to R141), that every instruction completes where no parameter makes it fault (R142, R385), and that an
operand access that faults stops the instruction with nothing else changed (R373 to R375). -/

namespace Sys2Proof.Machine

/-! ### The accesses that cannot fault (R373, R375) -/

theorem memRead2_ok {s : State} (h : s.cfg.bankOor = .zero) (a : Word) : ∃ w, s.memRead2 a = .ok w := by
  obtain ⟨lo, hlo⟩ := memRead_ok h a
  obtain ⟨hi, hhi⟩ := memRead_ok h (a + 1)
  exact ⟨wordOf lo hi, by simp only [State.memRead2, hlo, hhi]⟩

theorem indirectTarget_ok {s : State} (h : s.cfg.bankOor = .zero) (ptr : Word) :
    ∃ w, s.indirectTarget ptr = .ok w := by
  obtain ⟨lo, hlo⟩ := memRead_ok h ptr
  obtain ⟨hi, hhi⟩ := memRead_ok h (indirectHigh s.cfg.jmpIndWrap ptr)
  exact ⟨wordOf lo hi, by simp only [State.indirectTarget, hlo, hhi]⟩

theorem readLoc_ok {s : State} (h : s.cfg.bankOor = .zero) (l : Loc) : ∃ m, s.readLoc l = .ok m := by
  cases l with
  | none => exact ⟨0, rfl⟩
  | acc => exact ⟨s.a, rfl⟩
  | imm v => exact ⟨v, rfl⟩
  | mem ea => exact memRead_ok h ea

theorem readOperand_ok {s : State} (h : s.cfg.bankOor = .zero) (o : Operand) : ∃ m, s.readOperand o = .ok m :=
  readLoc_ok h (s.resolve o).loc

theorem writeLoc_ok {s : State} (h : s.cfg.unmappedWrite = .ignore) (l : Loc) (r : Byte) :
    ∃ t, s.writeLoc l r = .ok t := by
  cases l with
  | none => exact ⟨s, rfl⟩
  | acc => exact ⟨{ s with a := r }, rfl⟩
  | imm v => exact ⟨s, rfl⟩
  | mem ea => exact memWrite_ok h ea r

/-! ### Every instruction completes (R142, R385) -/

/-- With P_DECIMAL = Binary, R171's check stops nothing. -/
theorem decimal_clear_of_binary {s : State} (h : s.cfg.decimal = .binary) :
    s.cfg.decimal = .fault → s.flags.d = false :=
  fun hf => absurd (h.symm.trans hf) (by decide)

/-- BRK is supported under P_BRK = Standard alone (R225). -/
theorem brk_standard_of_wellFormed {c : Config} (h : Instr.wellFormed c .brk = true) : c.brk = .standard := by
  unfold Instr.wellFormed at h
  cases hb : c.brk with
  | standard => rfl
  | fault =>
    rw [hb] at h
    exact absurd h (by decide)

/-- Settles O9: class by class, none of the accesses that an instruction makes can fault. -/
theorem everyInstructionCompletes : Obligations.EveryInstructionCompletes := by
  intro i s hbank hwrite hdec hwf
  rcases instr_classes i with ⟨e, he⟩ | ⟨e, he⟩ | ⟨e, he⟩ | ⟨e, he⟩ | ⟨e, he, -⟩ | ⟨e, he⟩ | ⟨w, rfl⟩ | ⟨w, rfl⟩ |
    ⟨w, rfl⟩ | rfl | rfl | rfl
  · obtain ⟨m, hm⟩ := readOperand_ok hbank i.operand
    exact ⟨_, exec_read_ok he hm⟩
  · obtain ⟨m, hm⟩ := readOperand_ok hbank i.operand
    exact ⟨_, exec_arith_ok he (decimal_clear_of_binary hdec) hm⟩
  · obtain ⟨t, ht⟩ := writeLoc_ok hwrite (s.resolve i.operand).loc (e s)
    exact ⟨_, exec_store_completed he ht⟩
  · obtain ⟨v, hv⟩ := readOperand_ok hbank i.operand
    obtain ⟨t, ht⟩ := writeLoc_ok hwrite (s.resolve i.operand).loc (e.1 s.flags.c v)
    exact ⟨_, exec_modify_ok he hv ht⟩
  · exact ⟨_, exec_implied_ok he s⟩
  · obtain ⟨r, -, hr⟩ := exec_branch he s
    exact ⟨_, hr⟩
  · exact ⟨_, (exec_direct w s).1⟩
  · obtain ⟨u, hu⟩ := indirectTarget_ok hbank w
    exact ⟨_, exec_jmpInd_ok hu⟩
  · exact ⟨_, (exec_direct w s).2.1⟩
  · exact ⟨_, (exec_direct 0 s).2.2.1⟩
  · exact ⟨_, (exec_direct 0 s).2.2.2⟩
  · obtain ⟨w, hw⟩ := memRead2_ok (s := s.trapFrame) hbank 0xFFFE
    exact ⟨_, exec_brk_ok (brk_standard_of_wellFormed hwf) hw⟩

/-! ### Operand accesses that fault (R142, R373, R374, R375) -/

/-- The mnemonics that read their operand whatever P_DECIMAL is: the read class but ADC and SBC, and the
read-modify-writes (R125). -/
def operandReading : List Mnemonic :=
  [.lda, .ldx, .ldy, .and, .ora, .eor, .cmp, .cpx, .cpy, .bit, .inc, .dec, .asl, .lsr, .rol, .ror]

theorem readEffect_or_modifyEffect {m : Mnemonic} (hm : m ∈ operandReading) :
    (∃ e, readEffect m = some e) ∨ ∃ e, modifyEffect m = some e := by
  cases m <;> first
    | exact .inl ⟨_, rfl⟩
    | exact .inr ⟨_, rfl⟩
    | exact absurd hm (by decide)

theorem arithEffect_of_mem {m : Mnemonic} (hm : m ∈ [.adc, .sbc]) : ∃ e, arithEffect m = some e := by
  cases m <;> first
    | exact ⟨_, rfl⟩
    | exact absurd hm (by decide)

theorem exec_operandReading_error {i : Instr} {s : State} {f : CoreFault} (hm : i.mnemonic ∈ operandReading)
    (hf : s.readOperand i.operand = .error f) : exec i s = s.stopsAt f := by
  rcases readEffect_or_modifyEffect hm with ⟨e, he⟩ | ⟨e, he⟩
  · exact exec_read_error he hf
  · exact exec_modify_error he hf

/-- Settles O30: a faulting read stops every class that reads, and a store that no line of R57 claims is a faulting write. -/
theorem operandFaultsArePrecise : Obligations.OperandFaultsArePrecise := by
  refine ⟨fun i s f hf hm => ?_, fun i s ea hl hcfg hlow hapu hmode hbank => ?_⟩
  · rcases hm with hm | ⟨hm, hdec⟩
    · exact exec_operandReading_error hm hf
    · obtain ⟨e, he⟩ := arithEffect_of_mem hm
      exact exec_arith_error he (decimal_clear_of_binary hdec) hf
  · have hw : ∀ v, s.memWrite ea v = .error (.unmappedWrite ea v) := fun v =>
      (memWrite_unmapped hlow hapu hmode (mt isBankAddr_iff.1 hbank) v).2 hcfg
    exact ⟨fun hi => exec_store_error (e := State.a) (congrArg storedRegister hi) hl (hw s.a),
      fun hi => exec_store_error (e := State.x) (congrArg storedRegister hi) hl (hw s.x),
      fun hi => exec_store_error (e := State.y) (congrArg storedRegister hi) hl (hw s.y)⟩

/-! ### Loads, stores and transfers (R130 to R141) -/

theorem mem_operandReading_of_load {m : Mnemonic} (hm : m ∈ [.lda, .ldx, .ldy]) : m ∈ operandReading :=
  (by decide : ([.lda, .ldx, .ldy] : List Mnemonic) ⊆ operandReading) hm

/-- Settles O10: the three loads are of the read class, with the register loads of R10 as their effects. -/
theorem loadsSetRegisterAndNZ : Obligations.LoadsSetRegisterAndNZ := by
  refine ⟨encodedAs_of_rows (by decide +kernel), encodedAs_of_rows (by decide +kernel),
    encodedAs_of_rows (by decide +kernel), fun i s => ⟨fun f hf hm => ?_, fun m hm => ?_⟩⟩
  · exact exec_operandReading_error (mem_operandReading_of_load hm) hf
  · exact ⟨fun hi => exec_read_ok (e := State.loadA) (congrArg readEffect hi) hm,
      fun hi => exec_read_ok (e := State.loadX) (congrArg readEffect hi) hm,
      fun hi => exec_read_ok (e := State.loadY) (congrArg readEffect hi) hm⟩

/-- What a store does, as its write goes (R133 to R135). -/
theorem exec_store_outcome {i : Instr} {e : State → Byte} (he : storedRegister i.mnemonic = some e) {s : State}
    {ea : Word} (hl : (s.resolve i.operand).loc = .mem ea) :
    (∀ t, s.memWrite ea (e s) = .ok t → exec i s = .next (State.completed i s t)) ∧
    (∀ f, s.memWrite ea (e s) = .error f → exec i s = s.stopsAt f) :=
  ⟨fun _ ht => exec_store_ok he hl ht, fun _ hf => exec_store_error he hl hf⟩

/-- Settles O11: the three stores are of the write class, each with its register. -/
theorem storesWriteTheirRegister : Obligations.StoresWriteTheirRegister := by
  refine ⟨encodedAs_of_rows (by decide +kernel), encodedAs_of_rows (by decide +kernel),
    encodedAs_of_rows (by decide +kernel), fun i s ea hl => ?_⟩
  exact ⟨fun hi => exec_store_outcome (e := State.a) (congrArg storedRegister hi) hl,
    fun hi => exec_store_outcome (e := State.x) (congrArg storedRegister hi) hl,
    fun hi => exec_store_outcome (e := State.y) (congrArg storedRegister hi) hl⟩

/-- Settles O12: the six transfers have no operand, and their effects are the register loads of R10, but for TXS. -/
theorem transfersCopyRegisters : Obligations.TransfersCopyRegisters := by
  refine ⟨encodedAs_of_rows (by decide +kernel), encodedAs_of_rows (by decide +kernel),
    encodedAs_of_rows (by decide +kernel), encodedAs_of_rows (by decide +kernel),
    encodedAs_of_rows (by decide +kernel), encodedAs_of_rows (by decide +kernel), fun s => ?_⟩
  exact ⟨exec_implied_ok (i := .tax) rfl s, exec_implied_ok (i := .tay) rfl s, exec_implied_ok (i := .txa) rfl s,
    exec_implied_ok (i := .tya) rfl s, exec_implied_ok (i := .tsx) rfl s, exec_implied_ok (i := .txs) rfl s⟩

end Sys2Proof.Machine
end

section
/-! PROOFS. The statement about the stack instructions (42_stack.md): their encodings, the byte at the stack address, the
new S and what a pull loads (R150 to R153). -/

namespace Sys2Proof.Machine

/-- Settles O13: the four have no operand, so each completes with its effect, a push or a pull of R27; the byte that PHP
pushes is read bit by bit. -/
theorem stackInstructionsPushAndPull : Obligations.StackInstructionsPushAndPull := by
  refine ⟨encodedAs_of_rows (by decide +kernel), encodedAs_of_rows (by decide +kernel),
    encodedAs_of_rows (by decide +kernel), encodedAs_of_rows (by decide +kernel), fun s => ?_⟩
  dsimp only
  rw [← Flags.pushed_bits]
  refine ⟨?pha, ?php, ?pla, ?plp⟩
  case pha => exact exec_implied_ok (e := fun s => s.push s.a) rfl s
  case php => exact exec_implied_ok (e := fun s => s.push s.flags.pushed) rfl s
  case pla => exact exec_implied_ok (e := fun s => s.pop.loadA s.top) rfl s
  case plp => exact exec_implied_ok (e := fun s => { s.pop with flags := Flags.unpack s.top }) rfl s

end Sys2Proof.Machine
end

section
/-! PROOFS. The statements about the arithmetic, logical, compare and bit-test instructions (43_arith_logic.md): their
encodings, results and flags (R160 to R168), V by the parameters (R170), the decimal check (R171), faulting reads. -/

namespace Sys2Proof.Machine

/-! ### The overflow functions (R170) -/

theorem overflowAdd_literal (a m r : Byte) : overflowAdd .literal a m r = decide (m &&& 0x80 = r &&& 0x80) :=
  rfl

theorem overflowAdd_textbook (a m r : Byte) :
    overflowAdd .textbook a m r = decide (~~~(a ^^^ m) &&& (a ^^^ r) &&& 0x80 ≠ 0) :=
  (decide_not ..).symm

/-- P_SBC_V_OPERAND says which byte the literal formula of SBC compares with the result. -/
theorem overflowSub_literal (operand : SbcOverflowOperand) (a m r : Byte) :
    overflowSub .literal operand a m r = decide ((if operand = .m then m else ~~~m) &&& 0x80 = r &&& 0x80) := by
  cases operand <;> rfl

/-- The textbook formula of SBC does not depend on P_SBC_V_OPERAND. -/
theorem overflowSub_textbook (operand : SbcOverflowOperand) (a m r : Byte) :
    overflowSub .textbook operand a m r = decide ((a ^^^ m) &&& (a ^^^ r) &&& 0x80 ≠ 0) :=
  (decide_not ..).symm

/-! ### ADC and SBC (R160, R161, R171) -/

theorem exec_adc_ok {i : Instr} {s : State} {m : Byte} {v : Bool} (hi : i.mnemonic = .adc)
    (hd : s.cfg.decimal = .fault → s.flags.d = false) (hm : s.readOperand i.operand = .ok m)
    (hv : overflowAdd s.cfg.vMode s.a m (BitVec.ofNat 8 (exactSum s.a m s.flags.c)) = v) :
    let sum := exactSum s.a m s.flags.c
    exec i s = .next (State.completed i s { s with
      a := BitVec.ofNat 8 sum
      flags := { s.flags with c := decide (0xFF < sum), v := v }.setNZ (BitVec.ofNat 8 sum) }) := by
  subst hv
  exact exec_arith_ok (e := State.addCarry) (congrArg arithEffect hi) hd hm

theorem exec_sbc_ok {i : Instr} {s : State} {m : Byte} {v : Bool} (hi : i.mnemonic = .sbc)
    (hd : s.cfg.decimal = .fault → s.flags.d = false) (hm : s.readOperand i.operand = .ok m)
    (hv : overflowSub s.cfg.vMode s.cfg.sbcVOperand s.a m (BitVec.ofInt 8 (exactDifference s.a m s.flags.c)) = v) :
    let diff := exactDifference s.a m s.flags.c
    exec i s = .next (State.completed i s { s with
      a := BitVec.ofInt 8 diff
      flags := { s.flags with c := decide (0 ≤ diff), v := v }.setNZ (BitVec.ofInt 8 diff) }) := by
  subst hv
  exact exec_arith_ok (e := State.subtractBorrow) (congrArg arithEffect hi) hd hm

/-- Settles O14: the two are of the arithmetic class, whose decimal check comes before the operand is read; V is the
formula that P_V_MODE selects, one case per mode. -/
theorem addAndSubtractResults : Obligations.AddAndSubtractResults := by
  refine ⟨encodedAs_of_rows (by decide +kernel), encodedAs_of_rows (by decide +kernel),
    fun i s => ⟨fun hm hc hd => ?decimal, fun hd =>
      ⟨fun f hf hm => ?error, fun m hm => ⟨fun hi => ?adc, fun hi => ?sbc⟩⟩⟩⟩
  case decimal =>
    obtain ⟨e, he⟩ := arithEffect_of_mem hm
    exact exec_arith_decimal he hc hd
  case error =>
    obtain ⟨e, he⟩ := arithEffect_of_mem hm
    exact exec_arith_error he hd hf
  case adc =>
    refine exec_adc_ok hi hd hm ?_
    cases s.cfg.vMode with
    | literal => exact overflowAdd_literal ..
    | textbook => exact overflowAdd_textbook ..
  case sbc =>
    refine exec_sbc_ok hi hd hm ?_
    cases s.cfg.vMode with
    | literal => exact overflowSub_literal ..
    | textbook => exact overflowSub_textbook ..

/-! ### Logic, compare and bit test (R162 to R168) -/

/-- Settles O15: the three are of the read class, each loading A with its result (R10). -/
theorem logicResults : Obligations.LogicResults := by
  refine ⟨encodedAs_of_rows (by decide +kernel), encodedAs_of_rows (by decide +kernel),
    encodedAs_of_rows (by decide +kernel), fun i s => ⟨fun f hf hi => ?_, fun m hm => ?_⟩⟩
  · exact exec_operandReading_error ((show [.and, .ora, .eor] ⊆ operandReading by decide) hi) hf
  · exact ⟨fun hi => exec_read_ok (e := State.andA) (congrArg readEffect hi) hm,
      fun hi => exec_read_ok (e := State.orA) (congrArg readEffect hi) hm,
      fun hi => exec_read_ok (e := State.xorA) (congrArg readEffect hi) hm⟩

/-- Settles O16: the four are of the read class, and their effects write only flags. -/
theorem compareAndBitFlags : Obligations.CompareAndBitFlags := by
  refine ⟨encodedAs_of_rows (by decide +kernel), encodedAs_of_rows (by decide +kernel),
    encodedAs_of_rows (by decide +kernel), encodedAs_of_rows (by decide +kernel),
    fun i s => ⟨fun f hf hi => ?_, fun m hm => ?_⟩⟩
  · exact exec_operandReading_error ((show [.cmp, .cpx, .cpy, .bit] ⊆ operandReading by decide) hi) hf
  · exact ⟨fun hi => exec_read_ok (e := State.compareA) (congrArg readEffect hi) hm,
      fun hi => exec_read_ok (e := State.compareX) (congrArg readEffect hi) hm,
      fun hi => exec_read_ok (e := State.compareY) (congrArg readEffect hi) hm,
      fun hi => exec_read_ok (e := State.bitTest) (congrArg readEffect hi) hm⟩

end Sys2Proof.Machine
end

section
/-! PROOFS. The statements about the increments, decrements, shifts and rotates (44_incdec_shift.md): their encodings,
results and flags (R180 to R189), and the read and the write that can fault (R142, R374). -/

namespace Sys2Proof.Machine

/-- What a read-modify-write does once its operand is read, as its write goes (R125, log entry 7). -/
theorem exec_modify_outcome {i : Instr} {e : (Bool → Byte → Byte) × (Bool → Byte → Bool)}
    (he : modifyEffect i.mnemonic = some e) {s : State} {v : Byte} (hv : s.readOperand i.operand = .ok v) :
    (∀ t, s.writeLoc (s.resolve i.operand).loc (e.1 s.flags.c v) = .ok t →
      exec i s = .next (State.completed i s
        { t with flags := Flags.setNZ { s.flags with c := e.2 s.flags.c v } (e.1 s.flags.c v) })) ∧
    (∀ f, s.writeLoc (s.resolve i.operand).loc (e.1 s.flags.c v) = .error f →
      exec i s = State.stopsAt { s with flags := { s.flags with c := e.2 s.flags.c v } } f) :=
  ⟨fun _ ht => exec_modify_ok he hv ht, fun _ hf => exec_modify_write_error he hv hf⟩

/-! ### Increments and decrements (R180 to R185) -/

/-- An operand that resolves to an address is read there (R125). -/
theorem readOperand_of_loc_mem {s : State} {o : Operand} {ea : Word} (hl : (s.resolve o).loc = .mem ea) :
    s.readOperand o = s.memRead ea :=
  congrArg s.readLoc hl

/-- A read-modify-write on memory that keeps C: its write is at the address it reads, and a fault of it leaves every flag. -/
theorem exec_modify_mem_outcome {i : Instr} {result : Bool → Byte → Byte}
    (he : modifyEffect i.mnemonic = some (result, carryKept)) {s : State} {ea : Word} {v : Byte}
    (hl : (s.resolve i.operand).loc = .mem ea) (hv : s.memRead ea = .ok v) :
    (∀ t, s.memWrite ea (result s.flags.c v) = .ok t →
      exec i s = .next (State.completed i s { t with flags := s.flags.setNZ (result s.flags.c v) })) ∧
    (∀ f, s.memWrite ea (result s.flags.c v) = .error f → exec i s = s.stopsAt f) := by
  have h := exec_modify_outcome he ((readOperand_of_loc_mem hl).trans hv)
  rw [hl] at h
  exact h

/-- Settles O17: INC and DEC are read-modify-writes that keep C; the four register forms have no operand, and their effects
are the register loads of R10. -/
theorem incrementsAndDecrements : Obligations.IncrementsAndDecrements := by
  refine ⟨encodedAs_of_rows (by decide +kernel), encodedAs_of_rows (by decide +kernel),
    encodedAs_of_rows (by decide +kernel), encodedAs_of_rows (by decide +kernel),
    encodedAs_of_rows (by decide +kernel), encodedAs_of_rows (by decide +kernel),
    fun s => ⟨fun i ea hl => ⟨fun f hf hi => ?error, fun v hv => ⟨fun hi => ?inc, fun hi => ?dec⟩⟩, ?registers⟩⟩
  case error =>
    exact exec_operandReading_error ((show [.inc, .dec] ⊆ operandReading by decide) hi)
      ((readOperand_of_loc_mem hl).trans hf)
  case inc => exact exec_modify_mem_outcome (result := increment) (congrArg modifyEffect hi) hl hv
  case dec => exact exec_modify_mem_outcome (result := decrement) (congrArg modifyEffect hi) hl hv
  case registers =>
    exact ⟨exec_implied_ok (i := .inx) rfl s, exec_implied_ok (i := .iny) rfl s,
      exec_implied_ok (i := .dex) rfl s, exec_implied_ok (i := .dey) rfl s⟩

/-! ### Shifts and rotates (R186 to R189) -/

theorem rotateLeft_eq (c : Bool) (v : Byte) : rotateLeft c v = (v <<< 1) ||| (if c then 0x01 else 0x00) := by
  cases c <;> rfl

theorem rotateRight_eq (c : Bool) (v : Byte) : rotateRight c v = (v >>> 1) ||| (if c then 0x80 else 0x00) := by
  cases c <;> rfl

/-- Settles O18: the four are read-modify-writes on the accumulator or on memory; the old C enters the results of the
rotates alone. -/
theorem shiftsAndRotates : Obligations.ShiftsAndRotates := by
  refine ⟨encodedAs_of_rows (by decide +kernel), encodedAs_of_rows (by decide +kernel),
    encodedAs_of_rows (by decide +kernel), encodedAs_of_rows (by decide +kernel),
    fun i s => ⟨fun f hf hi => ?error, fun v hv => ?done⟩⟩
  case error =>
    exact exec_operandReading_error ((show [.asl, .lsr, .rol, .ror] ⊆ operandReading by decide) hi) hf
  case done =>
    rw [← rotateLeft_eq, ← rotateRight_eq]
    exact ⟨fun hi => exec_modify_outcome (e := (shiftLeft, carryOut7)) (congrArg modifyEffect hi) hv,
      fun hi => exec_modify_outcome (e := (shiftRight, carryOut0)) (congrArg modifyEffect hi) hv,
      fun hi => exec_modify_outcome (e := (rotateLeft, carryOut7)) (congrArg modifyEffect hi) hv,
      fun hi => exec_modify_outcome (e := (rotateRight, carryOut0)) (congrArg modifyEffect hi) hv⟩

end Sys2Proof.Machine
end

section
/-! PROOFS. The statements about control transfers and the system instructions (45_control_system.md): jumps and calls
(R118, R200, R201), returns (R202, R203, R212), BRK (R225), the flag instructions (R213 to R220), and the instruction
cycle that runs them, halted or not (R231, R342). -/

namespace Sys2Proof.Machine

/-! ### The stack, byte by byte (R21, R27) -/

/-- The RAM cell of the stack address that S = `k` gives (R21, R55). -/
def State.stackCell (s : State) (k : Byte) : Nat :=
  (stackAddr k).toNat % s.cfg.ramSize

theorem byte_add_two (k : Byte) : k + 1 + 1 = k + 2 :=
  add_assoc k 1 1

theorem byte_add_three (k : Byte) : k + 1 + 1 + 1 = k + 3 := by
  rw [byte_add_two k]
  exact add_assoc k 2 1

theorem byte_sub_two (k : Byte) : k - 1 - 1 = k - 2 :=
  sub_sub k 1 1

theorem byte_sub_three (k : Byte) : k - 2 - 1 = k - 3 :=
  sub_sub k 2 1

/-- `push16`: the high byte at S, the low byte below it (R27). -/
theorem push16_eq (s : State) (w : Word) :
    s.push16 w = { s with
      ram := (s.ram.write (s.stackCell s.sp) (highByte w)).write (s.stackCell (s.sp - 1)) (lowByte w)
      sp := s.sp - 2 } := by
  rw [← byte_sub_two]
  rfl

/-- The trap's frame, written out: three bytes from S down, and B and I (R225). -/
theorem trapFrame_eq (s : State) :
    s.trapFrame = { s with
      ram := ((s.ram.write (s.stackCell s.sp) (highByte (s.pc + 2))).write (s.stackCell (s.sp - 1))
        (lowByte (s.pc + 2))).write (s.stackCell (s.sp - 2)) s.flags.pushed
      sp := s.sp - 3
      flags := { s.flags with b := true, i := true } } := by
  rw [State.trapFrame, push16_eq, ← byte_sub_three]
  rfl

theorem pop_pop (s : State) : s.pop.pop = { s with sp := s.sp + 2 } := by
  rw [← byte_add_two]
  rfl

/-- `pull16` reads the low byte first, one above S (R27). -/
theorem top16_eq (s : State) :
    s.top16 = s.ram.read (s.stackCell (s.sp + 2)) ++ s.ram.read (s.stackCell (s.sp + 1)) := by
  rw [← byte_add_two]
  rfl

/-- The word above a byte that was pulled first, as RTI reads it (R203). -/
theorem pop_top16_eq (s : State) :
    s.pop.top16 = s.ram.read (s.stackCell (s.sp + 3)) ++ s.ram.read (s.stackCell (s.sp + 2)) := by
  rw [← byte_add_three, ← byte_add_two]
  rfl

/-! ### Jumps and calls (R118, R200, R201) -/

/-- A transfer of control that pays the clocks of its row ends as `State.transferred` states it (R230). -/
theorem exec_transferred {i : Instr} {n : Nat} {s u : State} {w : Word}
    (h : exec i s = .next ({ u with pc := w }.charge n)) (hn : i.baseClocks = n)
    (hst : u.apu.dmc.stallPending = s.apu.dmc.stallPending) : exec i s = .next (State.transferred i s w 0 u) := by
  rw [h]
  simp only [State.charge, State.transferred, hn, hst, Nat.add_zero]

theorem indirectHigh_eq (mode : JmpIndWrap) (w : Word) :
    indirectHigh mode w = if mode = .linear then w + 1 else (w &&& 0xFF00) ||| ((w + 1) &&& 0x00FF) := by
  cases mode <;> rfl

theorem indirectTarget_of_reads {s : State} {w : Word} {lo hi : Byte} (hlo : s.memRead w = .ok lo)
    (hhi : s.memRead (indirectHigh s.cfg.jmpIndWrap w) = .ok hi) : s.indirectTarget w = .ok (hi ++ lo) := by
  simp only [State.indirectTarget, hlo, hhi, wordOf]

theorem indirectTarget_low_error {s : State} {w : Word} {f : CoreFault} (hlo : s.memRead w = .error f) :
    s.indirectTarget w = .error f := by
  simp only [State.indirectTarget, hlo]

theorem indirectTarget_high_error {s : State} {w : Word} {lo : Byte} {f : CoreFault} (hlo : s.memRead w = .ok lo)
    (hhi : s.memRead (indirectHigh s.cfg.jmpIndWrap w) = .error f) : s.indirectTarget w = .error f := by
  simp only [State.indirectTarget, hlo, hhi]

theorem exec_jmpInd_error {s : State} {w : Word} {f : CoreFault} (hf : s.indirectTarget w = .error f) :
    exec (.jmpInd w) s = s.stopsAt f := by
  rcases jmpInd_cases s w with ⟨u, hu, -⟩ | ⟨g, hg, h⟩
  · cases hf.symm.trans hu
  · cases hf.symm.trans hg
    exact h

/-- Settles O19: a jump is charged the clocks of its row at its target, which for JMP (abs) its pointer gives or faults;
JSR first pushes a word. -/
theorem jumpsAndCalls : Obligations.JumpsAndCalls := by
  refine ⟨encodedAs_of_rows (by decide +kernel), encodedAs_of_rows (by decide +kernel), fun s w => ?_⟩
  obtain ⟨habs, hjsr, -, -⟩ := exec_direct w s
  dsimp only
  rw [← indirectHigh_eq]
  refine ⟨?abs, fun lo hi hlo hhi => ?ind, fun f hlo => ?low, fun lo f hlo hhi => ?high, ?jsr⟩
  case abs => exact exec_transferred habs rfl rfl
  case ind => exact exec_transferred (exec_jmpInd_ok (indirectTarget_of_reads hlo hhi)) rfl rfl
  case low => exact exec_jmpInd_error (indirectTarget_low_error hlo)
  case high => exact exec_jmpInd_error (indirectTarget_high_error hlo hhi)
  case jsr =>
    rw [push16_eq] at hjsr
    exact exec_transferred hjsr rfl rfl

/-! ### Returns (R202, R203, R212) -/

theorem isSentinel_eq_decide (c : Config) (w : Word) :
    isSentinel c w = decide (w = c.sentinelInit ∨ w = c.sentinelPlay) :=
  (Bool.decide_or ..).symm

/-- RTS, with the word it pulls in place of its two pulls (R202, R212). -/
theorem exec_rts (s : State) :
    let r : Word := s.top16 + 1
    exec .rts s = .next (State.transferred .rts s r 0 { s with
      sp := s.sp + 2
      halted := s.halted || decide (r = s.cfg.sentinelInit ∨ r = s.cfg.sentinelPlay) }) := by
  intro r
  obtain ⟨-, -, h, -⟩ := exec_direct 0 s
  rw [State.subroutineReturn, pop_pop, isSentinel_eq_decide] at h
  exact exec_transferred h rfl rfl

/-- RTI, with the word it pulls in place of its last two pulls (R203). -/
theorem exec_rti (s : State) :
    exec .rti s = .next (State.transferred .rti s s.pop.top16 0 { s with
      sp := s.sp + 3
      flags := Flags.unpack s.top }) := by
  obtain ⟨-, -, -, h⟩ := exec_direct 0 s
  rw [← byte_add_three]
  exact exec_transferred h rfl rfl

/-- Settles O20: the pulled words, read byte by byte. -/
theorem returns : Obligations.Returns := by
  refine ⟨encodedAs_of_rows (by decide +kernel), encodedAs_of_rows (by decide +kernel), fun s => ⟨?rts, ?rti⟩⟩
  case rts =>
    have h := exec_rts s
    rw [top16_eq] at h
    exact h
  case rti =>
    have h := exec_rti s
    rw [pop_top16_eq] at h
    exact h

/-! ### BRK (R225, R378) -/

/-- The vector is read above RAM, so the frame that BRK pushes first does not change it (R55, R225). -/
theorem memRead2_trapFrame (s : State) : s.trapFrame.memRead2 0xFFFE = s.memRead2 0xFFFE := by
  have hlo : s.trapFrame.memRead 0xFFFE = s.memRead 0xFFFE := memRead_trapFrame _ (by decide)
  have hhi : s.trapFrame.memRead (0xFFFE + 1) = s.memRead (0xFFFE + 1) := memRead_trapFrame _ (by decide)
  simp only [State.memRead2, hlo, hhi]

theorem exec_brk_unsupported {s : State} (hb : s.cfg.brk = .fault) :
    exec .brk s = s.stopsAt (.unsupportedOpcode s.pc 0x00) := by
  show execBrk s = _
  rw [execBrk, hb]
  rfl

theorem exec_brk_error {s : State} {f : CoreFault} (hb : s.cfg.brk = .standard)
    (hf : s.trapFrame.memRead2 0xFFFE = .error f) : exec .brk s = s.trapFrame.stopsAt f := by
  have htrap : exec .brk s = s.trap 7 := by
    show execBrk s = _
    rw [execBrk, hb]
  rcases trap_cases s 7 with ⟨w, hw, -⟩ | ⟨g, hg, h⟩
  · cases hf.symm.trans hw
  · cases hf.symm.trans hg
    exact htrap.trans h

/-- Settles O23: BRK faults, or it is the trap, which completes or stops with its frame done. -/
theorem breakFaultsOrTraps : Obligations.BreakFaultsOrTraps := by
  refine ⟨encodedAs_of_rows (by decide +kernel), fun s => ?_⟩
  dsimp only
  rw [← Flags.pushed_bits]
  refine ⟨exec_brk_unsupported, fun hb => ⟨fun lo hi hlo hhi => ?trap, fun f hf => ?stop⟩⟩
  case trap =>
    have hv : s.memRead2 0xFFFE = .ok (hi ++ lo) := by
      have hhi' : s.memRead (0xFFFE + 1) = .ok hi := hhi
      simp only [State.memRead2, hlo, hhi', wordOf]
    have h := exec_brk_ok hb ((memRead2_trapFrame s).trans hv)
    rw [trapFrame_eq] at h
    exact exec_transferred h rfl rfl
  case stop =>
    have hv : s.memRead2 0xFFFE = .error f := by simp only [State.memRead2, hf]
    rw [exec_brk_error hb ((memRead2_trapFrame s).trans hv), trapFrame_eq]
    rfl

/-! ### The flag instructions (R213 to R220) -/

/-- Settles O22: the eight have no operand, so each completes with its effect. -/
theorem flagInstructionsWriteOneFlag : Obligations.FlagInstructionsWriteOneFlag := by
  refine ⟨encodedAs_of_rows (by decide +kernel), encodedAs_of_rows (by decide +kernel),
    encodedAs_of_rows (by decide +kernel), encodedAs_of_rows (by decide +kernel),
    encodedAs_of_rows (by decide +kernel), encodedAs_of_rows (by decide +kernel),
    encodedAs_of_rows (by decide +kernel), encodedAs_of_rows (by decide +kernel), fun s => ?_⟩
  exact ⟨exec_implied_ok (i := .clc) rfl s, exec_implied_ok (i := .sec) rfl s, exec_implied_ok (i := .cli) rfl s,
    exec_implied_ok (i := .sei) rfl s, exec_implied_ok (i := .cld) rfl s, exec_implied_ok (i := .sed) rfl s,
    exec_implied_ok (i := .clv) rfl s, exec_implied_ok (i := .nop) rfl s⟩

/-! ### The instruction cycle (R231, R342) -/

theorem step_eq_runStep {s : State} (hs : s.started = true) (hf : s.fault = none) : step s = s.runStep := by
  rw [step, if_pos hs, hf]

theorem runStep_of_executeOne_next {s t : State} (h : s.executeOne = .next t) :
    s.runStep = t.playDriver.apuTick t.cost := by
  rw [State.runStep, h]
  rfl

theorem executeOne_of_halted {s : State} (hh : s.halted = true) : s.executeOne = .next (s.charge s.cfg.haltCost) := by
  rw [State.executeOne, if_pos hh]

theorem executeOne_of_fetch {s : State} {i : Instr} (hh : s.halted = false) (hi : s.fetch = .ok i) :
    s.executeOne = exec i s := by
  rw [State.executeOne, if_neg (by rw [hh]; decide), hi]

/-- Of three bytes that decode, those that belong to the instruction are the ones its fetch reads, so it is enough that
these stand at PC (R91, R110). -/
theorem fetch_of_decode {s : State} {i : Instr} {b0 b1 b2 : Byte} {rest : List Byte}
    (hdec : decode [b0, b1, b2] = .ok (i, rest)) (h0 : s.memRead s.pc = .ok b0)
    (h1 : 2 ≤ i.operand.length → s.memRead (s.pc + 1) = .ok b1)
    (h2 : 3 ≤ i.operand.length → s.memRead (s.pc + 2) = .ok b2) : s.fetch = .ok i := by
  have hbytes : [b0, b1, b2] = encode i ++ rest := encode_decode hdec
  have hlen : (encode i).length = i.operand.length := encode_length i
  have hpc : s.pc + 1 + 1 = s.pc + 2 := add_assoc s.pc 1 1
  refine fetch_encode ?_
  rw [← hlen] at h1 h2
  generalize encode i = bs at hbytes h1 h2 ⊢
  match bs with
  | [] => rfl
  | [_] =>
    cases hbytes
    exact fetchOperands_cons.2 ⟨h0, rfl⟩
  | [_, _] =>
    cases hbytes
    exact fetchOperands_cons.2 ⟨h0, fetchOperands_cons.2 ⟨h1 le_rfl, rfl⟩⟩
  | [_, _, _] =>
    cases hbytes
    exact fetchOperands_cons.2 ⟨h0, fetchOperands_cons.2 ⟨h1 (Nat.le_succ 2),
      fetchOperands_cons.2 ⟨hpc ▸ h2 le_rfl, rfl⟩⟩⟩
  | _ :: _ :: _ :: _ :: _ => cases hbytes

/-- Settles O4: the step executes what the fetch decodes, and passes on each of its three outcomes. -/
theorem stepRunsTheDecodedInstruction : Obligations.StepRunsTheDecodedInstruction := by
  intro s i b0 b1 b2 rest hs hf hh hdec h0 h1 h2
  have hone : s.executeOne = exec i s := executeOne_of_fetch hh (fetch_of_decode hdec h0 h1 h2)
  rw [step_eq_runStep hs hf, State.runStep, hone]
  cases exec i s <;> rfl

/-- Settles O5: the halted ExecuteOne is the charge of P_HALT_COST. -/
theorem haltedStepFetchesNothing : Obligations.HaltedStepFetchesNothing :=
  fun _ hs hf hh => (step_eq_runStep hs hf).trans (runStep_of_executeOne_next (executeOne_of_halted hh))

end Sys2Proof.Machine
end

section
/-! PROOFS. The statements about the APU's registers and the frame sequencer (46_apu_sequencer_units.md): the register
writes (R242 to R254, R256), the sequencer's loop under both values of P_FS_RESET (R261), the events of a cycle (R262,
R265), and what an event does to each unit (R263, R264, R266 to R271). -/

namespace Sys2Proof.Machine

/-! ### The frame sequencer's loop (R261) -/

/-- No frame event reads or writes the sequencer (R263, R264). -/
theorem Apu.frameEvents_withSeq (c : Config) (k : Nat) (p : Apu) (q : FrameSeq) :
    Apu.frameEvents c k { p with seq := q } = { p.frameEvents c k with seq := q } := by
  unfold Apu.frameEvents
  split <;> split <;> rfl

theorem Apu.fireSteps_of_le {c : Config} {p : Apu} (h : p.seq.acc ≤ p.threshold c) (fuel : Nat) :
    p.fireSteps c fuel = p := by
  cases fuel with
  | zero => rfl
  | succ n => rw [Apu.fireSteps, if_neg (not_lt.2 h)]

theorem Apu.fireSteps_of_lt {c : Config} {p : Apu} (h : p.threshold c < p.seq.acc) (fuel : Nat) :
    p.fireSteps c (fuel + 1) = (p.fireStep c).fireSteps c fuel := by
  rw [Apu.fireSteps, if_pos h]

theorem Apu.fireSteps_succ {c : Config} {fuel : Nat} {p : Apu} (h : p.seq.acc ≤ fuel) :
    p.fireSteps c (fuel + 1) = p.fireSteps c fuel := by
  induction fuel generalizing p with
  | zero => exact Apu.fireSteps_of_le (by omega) 1
  | succ n ih =>
    rcases le_or_gt p.seq.acc (p.threshold c) with hle | hlt
    · rw [Apu.fireSteps_of_le hle, Apu.fireSteps_of_le hle]
    · have hacc := Apu.fireStep_acc hlt
      rw [Apu.fireSteps_of_lt hlt, Apu.fireSteps_of_lt hlt, ih (by omega)]

/-- Any fuel from the accumulator on gives what R261's own fuel gives. -/
theorem Apu.fireSteps_fuel {c : Config} {fuel : Nat} {p : Apu} (h : p.seq.acc ≤ fuel) :
    p.fireSteps c fuel = p.fireSteps c p.seq.acc :=
  Nat.le_induction rfl (fun _ hn ih => (Apu.fireSteps_succ hn).trans ih) fuel h

/-- The APU with `d` clocks on the accumulator, before R261's loop. -/
def Apu.addClocks (d : Nat) (p : Apu) : Apu :=
  { p with seq := { p.seq with acc := p.seq.acc + d } }

theorem Apu.advanceFrame_eq (c : Config) (p : Apu) (d : Nat) :
    p.advanceFrame c d = (p.addClocks d).fireSteps c (p.seq.acc + d) :=
  rfl

/-- Clocks that stay at or below the threshold only add up. -/
theorem Apu.advanceFrame_of_le {c : Config} {p : Apu} {d : Nat} (h : p.seq.acc + d ≤ p.threshold c) :
    p.advanceFrame c d = p.addClocks d := by
  rw [Apu.advanceFrame_eq, Apu.fireSteps_of_le h]

/-- The APU after its current step has fired, with accumulator `a` (R261, R262). -/
def Apu.fired (c : Config) (p : Apu) (a : Nat) : Apu :=
  { p.frameEvents c p.seq.step with seq := { p.seq with step := (p.seq.step + 1) % p.seq.mode.steps, acc := a } }

theorem Apu.fireStep_addClocks_zero {c : Config} (hz : c.fsReset = .zero) (p : Apu) (d : Nat) :
    (p.addClocks d).fireStep c = p.fired c 0 := by
  rw [Apu.fireStep, Apu.addClocks, Apu.frameEvents_withSeq, hz]
  rfl

theorem Apu.fireStep_addClocks_carry {c : Config} (hc : c.fsReset = .carry) (p : Apu) (d : Nat) :
    (p.addClocks d).fireStep c = p.fired c (p.seq.acc + d - (p.threshold c + 1)) := by
  rw [Apu.fireStep, Apu.addClocks, Apu.frameEvents_withSeq, hc]
  rfl

/-- Clocks that pass the threshold fire the current step; the loop goes on from the accumulator that the firing
leaves. -/
theorem Apu.advanceFrame_of_lt {c : Config} {p : Apu} {d a : Nat} (h : p.threshold c < p.seq.acc + d)
    (hfire : (p.addClocks d).fireStep c = p.fired c a) : p.advanceFrame c d = (p.fired c a).fireSteps c a := by
  have hlt : (p.fired c a).seq.acc < p.seq.acc + d := hfire ▸ Apu.fireStep_acc (p := p.addClocks d) h
  calc p.advanceFrame c d
      = (p.addClocks d).fireSteps c (p.seq.acc + d) := p.advanceFrame_eq c d
    _ = (p.addClocks d).fireSteps c (p.seq.acc + d + 1) := (Apu.fireSteps_succ (p := p.addClocks d) le_rfl).symm
    _ = (p.fired c a).fireSteps c (p.seq.acc + d) := by rw [Apu.fireSteps_of_lt h, hfire]
    _ = (p.fired c a).fireSteps c a := Apu.fireSteps_fuel hlt.le

/-- Settles O43: the loop fires once, because it goes on from an accumulator of 0. -/
theorem frameStepFiresOnce : Obligations.FrameStepFiresOnce := by
  intro c p d hz
  exact ⟨Apu.advanceFrame_of_le, fun h => Apu.advanceFrame_of_lt h (Apu.fireStep_addClocks_zero hz p d)⟩

/-- Under Carry the accumulator that a fired step leaves takes the clocks that follow: one clock and then `d` are
`d + 1`. -/
theorem Apu.advanceFrame_succ {c : Config} {p : Apu} (hc : c.fsReset = .carry) (h : p.seq.acc ≤ p.threshold c)
    (d : Nat) : (p.advanceFrame c 1).advanceFrame c d = p.advanceFrame c (d + 1) := by
  rcases le_or_gt (p.seq.acc + 1) (p.threshold c) with hle | hlt
  · rw [Apu.advanceFrame_of_le hle]
    simp only [Apu.advanceFrame, Apu.addClocks, add_assoc, add_comm 1 d]
  · have hfire : ∀ k, (p.addClocks (k + 1)).fireStep c = p.fired c k := fun k => by
      rw [Apu.fireStep_addClocks_carry hc]
      congr 1
      omega
    have hone : p.advanceFrame c 1 = p.fired c 0 := Apu.advanceFrame_of_lt hlt (hfire 0)
    calc (p.advanceFrame c 1).advanceFrame c d
        = (p.fired c (0 + d)).fireSteps c (0 + d) := by rw [hone]; rfl
      _ = (p.fired c d).fireSteps c d := by rw [Nat.zero_add]
      _ = p.advanceFrame c (d + 1) := (Apu.advanceFrame_of_lt (by omega) (hfire d)).symm

theorem Apu.advanceFrame_acc_le (c : Config) (p : Apu) (d : Nat) :
    (p.advanceFrame c d).seq.acc ≤ (p.advanceFrame c d).threshold c :=
  Apu.fireSteps_done _ _ le_rfl

/-- Settles O44, by induction on the clocks: after each of them the accumulator is again within the threshold. -/
theorem carryMakesClocksAdditive : Obligations.CarryMakesClocksAdditive := by
  rintro c p d hc ⟨-, hacc⟩
  induction d generalizing p with
  | zero => exact (Apu.advanceFrame_of_le (d := 0) hacc).symm
  | succ d ih => exact (ih _ (p.advanceFrame_acc_le c 1)).trans (Apu.advanceFrame_succ hc hacc d)

/-! ### The frame events (R262 to R264) -/

/-- An envelope clock leaves the halt flag, which the length clock reads (R266, R268). -/
@[simp] theorem Envelope.clock_halt (e : Envelope) : e.clock.halt = e.halt := by
  unfold Envelope.clock
  split
  · rfl
  · split <;> rfl

/-- The quarter-frame and the half-frame actions touch different fields, and neither reads what the other writes. -/
theorem Apu.quarterFrame_halfFrame (c : Config) (p : Apu) :
    p.quarterFrame.halfFrame c = (p.halfFrame c).quarterFrame := by
  simp only [Apu.halfFrame, Apu.lengthClocks, Apu.quarterFrame, Envelope.clock_halt]
  rfl

/-- Settles O45: the events of each step are read off `emitsQuarter` and `emitsHalf`. -/
theorem frameEventsOfACycle : Obligations.FrameEventsOfACycle := by
  refine ⟨fun m => ?_, rfl, rfl, fun c p => ⟨rfl, rfl, rfl, rfl, rfl, p.quarterFrame_halfFrame c⟩⟩
  cases m <;> decide

theorem lengthClock_eq (halt : Bool) (l : Nat) :
    lengthClock halt l = if halt = false ∧ 0 < l then l - 1 else l := by
  simp [lengthClock]

theorem Triangle.linearClock_eq (t : Triangle) : t.linearClock = { t with
    lin := if t.linReloadFlag = true then t.linReloadValue else if 0 < t.lin then t.lin - 1 else t.lin
    linReloadFlag := if t.control = false then false else t.linReloadFlag } := by
  have hflag : (t.linReloadFlag && t.control) = if t.control = false then false else t.linReloadFlag := by
    cases t.control <;> simp
  rw [Triangle.linearClock, hflag]

/-- Settles O46: the unit clocks in the form the rules give them. -/
theorem envelopesAndCountersClock : Obligations.EnvelopesAndCountersClock := by
  intro c p env len t
  have hlen : ∀ halt l, lengthClock halt l = len halt l := lengthClock_eq
  refine ⟨?_, ?_⟩
  · rw [Apu.quarterFrame, Triangle.linearClock_eq]
    rfl
  · rw [Apu.halfFrame, Apu.lengthClocks, hlen, hlen, hlen, hlen]
    rfl

/-! ### The sweep (R270, R271) -/

theorem Pulse.sweepTarget_eq (first : Bool) (p : Pulse) :
    p.sweepTarget first = if p.sweep.neg then
      (p.period.toNat : Int) - (p.period.toNat / 2 ^ p.sweep.shift.toNat : Nat) - (if first then 1 else 0)
    else p.period.toNat + (p.period.toNat / 2 ^ p.sweep.shift.toNat : Nat) := by
  simp only [Pulse.sweepTarget, Nat.shiftRight_eq_div_pow]

theorem Pulse.sweepOverflows_iff {c : Config} {first : Bool} {p : Pulse} :
    p.sweepOverflows c first = true ↔ p.sweep.en = true ∧ (c.sweepLimit : Int) < p.sweepTarget first := by
  simp [Pulse.sweepOverflows]

theorem Pulse.sweepUpdates_iff {c : Config} {first : Bool} {p : Pulse} :
    p.sweepUpdates c first = true ↔ p.sweep.div = 0 ∧ p.sweep.en = true ∧ p.sweep.shift ≠ 0 ∧
      ¬ p.sweepOverflows c first = true ∧ c.pulseMinPeriod ≤ p.period.toNat := by
  simp [Pulse.sweepUpdates, and_assoc]

/-- What a sweep clock does beside the period and the mute flag: the divider and the reload flag (R271). -/
theorem Pulse.sweepClock_frame (c : Config) (first : Bool) (p : Pulse) :
    p.sweepClock c first = { p with
      period := (p.sweepClock c first).period
      sweep := { p.sweep with
        mute := (p.sweepClock c first).sweep.mute
        div := if p.sweep.div = 0 ∨ p.sweep.reload = true then p.sweep.period else p.sweep.div - 1
        reload := false } } := by
  have hreload : (p.sweep.reload && !(decide (p.sweep.div = 0) || p.sweep.reload)) = false := by
    cases p.sweep.reload <;> simp
  rw [Pulse.sweepClock, hreload]
  simp only [Bool.or_eq_true, decide_eq_true_eq]

/-- Settles O47: an updated period is the target, which the update condition keeps within P_SWEEP_LIMIT. -/
theorem sweepStaysInRange : Obligations.SweepStaysInRange := by
  intro c first p hwf change target muted updates q
  have hc := Config.facts hwf
  have htarget : p.sweepTarget first = target := p.sweepTarget_eq first
  have hmuted : p.sweepOverflows c first = true ↔ muted := by
    rw [Pulse.sweepOverflows_iff, htarget]
  have hupdates : p.sweepUpdates c first = true ↔ updates := by
    rw [Pulse.sweepUpdates_iff, hmuted]
  rcases Pulse.sweepClock_period (first := first) (q := p) hc with ⟨hyes, hq⟩ | ⟨hno, hq⟩
  · obtain ⟨h0, hlimit⟩ := Pulse.sweepUpdates_target hc hyes
    exact ⟨hmuted, fun _ => htarget ▸ ⟨h0, hlimit, hq⟩, fun hu => absurd (hupdates.1 hyes) hu,
      p.sweepClock_frame c first⟩
  · have hstays : ¬ updates := fun hu => Bool.false_ne_true (hno ▸ hupdates.2 hu)
    exact ⟨hmuted, fun hu => absurd hu hstays, fun _ => hq, p.sweepClock_frame c first⟩

/-! ### The register writes (R242 to R254, R256) -/

theorem lengthLoad_eq (c : Config) (v : Byte) : lengthLoad c v = c.lengthTable[(v >>> 3).toNat]?.getD 0 := by
  have hindex : (bits v 3 5).toNat = (v >>> 3).toNat := by
    have hv := v.isLt
    simp only [bits, BitVec.extractLsb'_toNat, BitVec.toNat_ushiftRight, Nat.shiftRight_eq_div_pow]
    omega
  have hlt : (v >>> 3).toNat < 32 := hindex ▸ (bits v 3 5).isLt
  rw [Vector.getElem?_eq_getElem hlt]
  simp only [lengthLoad, hindex, Option.getD_some]

/-- A timer-low write puts the byte below the bits of the period above 7 (R245, R247). -/
theorem timerLow_eq_append {k : Nat} (x : BitVec (k + 8)) (v : Byte) :
    (x &&& (BitVec.allOnes k ++ 0#8)) ||| v.setWidth (k + 8) = x.extractLsb' 8 k ++ v := by
  ext i hi
  by_cases h : i < 8
  · simp [BitVec.getElem_append, h]
  · have hbit : 8 + (i - 8) = i := by omega
    simp [BitVec.getElem_append, h, hbit, BitVec.getLsbD_of_ge v i (by omega), BitVec.getLsbD_eq_getElem hi]

/-- A timer-high write puts its bits above the low byte of the period (R244, R248). -/
theorem timerHigh_eq_append {k : Nat} (x : BitVec (k + 8)) (m : BitVec 3) :
    (m.setWidth (k + 8) <<< 8) ||| (x &&& (0#k ++ BitVec.allOnes 8)) = m.setWidth k ++ x.extractLsb' 0 8 := by
  ext i hi
  by_cases h : i < 8
  · simp [BitVec.getElem_append, h, -BitVec.reduceAllOnes, BitVec.getLsbD_eq_getElem hi]
  · simp [BitVec.getElem_append, h]

/-- A write to an APU register, from what R241's decode makes of it. -/
theorem memWrite_of_apuWrite {s : State} {a : Word} {v : Byte} {q : Apu} (hlo : 0x4000 ≤ a) (hhi : a ≤ 0x4015)
    (hq : apuWrite s.cfg a v s.apu = q) : s.memWrite a v = .ok { s with apu := q } :=
  hq ▸ memWrite_apu hlo hhi v s

theorem Pulse.writeTimerLow_eq (v : Byte) (p : Pulse) :
    p.writeTimerLow v = { p with period := p.period.extractLsb' 8 4 ++ v } :=
  congrArg (fun w => ({ p with period := w } : Pulse)) (timerLow_eq_append (k := 4) p.period v)

theorem Pulse.writeTimerHigh_eq (c : Config) (v : Byte) (p : Pulse) : p.writeTimerHigh c v = { p with
    period := (0#1) ++ v.extractLsb' 0 3 ++ p.period.extractLsb' 0 8
    length := c.lengthTable[(v >>> 3).toNat]?.getD 0
    step := 0
    env := { p.env with start := true } } := by
  have hperiod : ((bits v 0 3).setWidth 12 <<< 8) ||| (p.period &&& 0x0FF) =
      (0#1) ++ v.extractLsb' 0 3 ++ p.period.extractLsb' 0 8 := by
    have htop : (bits v 0 3).setWidth 4 = (0#1) ++ v.extractLsb' 0 3 := BitVec.setWidth_eq_append (by decide)
    exact (timerHigh_eq_append (k := 4) p.period (bits v 0 3)).trans (by rw [htop])
  rw [Pulse.writeTimerHigh, hperiod, lengthLoad_eq]

theorem Triangle.writeTimerLow_eq (v : Byte) (t : Triangle) :
    t.writeTimerLow v = { t with period := t.period.extractLsb' 8 3 ++ v } :=
  congrArg (fun w => ({ t with period := w } : Triangle)) (timerLow_eq_append (k := 3) t.period v)

theorem Triangle.writeTimerHigh_eq (c : Config) (v : Byte) (t : Triangle) : t.writeTimerHigh c v = { t with
    period := v.extractLsb' 0 3 ++ t.period.extractLsb' 0 8
    length := c.lengthTable[(v >>> 3).toNat]?.getD 0
    linReloadFlag := true } := by
  have hperiod : ((bits v 0 3).setWidth 11 <<< 8) ||| (t.period &&& 0x0FF) =
      v.extractLsb' 0 3 ++ t.period.extractLsb' 0 8 :=
    (timerHigh_eq_append (k := 3) t.period (bits v 0 3)).trans (by rw [BitVec.setWidth_eq]; rfl)
  rw [Triangle.writeTimerHigh, hperiod, lengthLoad_eq]

theorem Noise.writeLength_eq (c : Config) (v : Byte) (n : Noise) : n.writeLength c v = { n with
    length := c.lengthTable[(v >>> 3).toNat]?.getD 0, env := { n.env with start := true } } := by
  rw [Noise.writeLength, lengthLoad_eq]

theorem Dmc.writeLevel_eq (v : Byte) (d : Dmc) : d.writeLevel v = { d with level := v.toNat % 128 / 2 } := by
  simp [Dmc.writeLevel, bits, BitVec.extractLsb'_toNat, Nat.shiftRight_eq_div_pow]

/-- Settles O39: the decode of each address, and the two timer writes as appends. -/
theorem pulseRegisterWrites : Obligations.PulseRegisterWrites := by
  intro s v q sw lo hi
  refine ⟨?_, ?_, ?_, ?_, ?_, ?_, ?_, ?_⟩ <;> refine memWrite_of_apuWrite (by decide) (by decide) ?_
  · rfl
  · rfl
  · exact congrArg (fun p => { s.apu with pulse1 := p }) (Pulse.writeTimerLow_eq v _)
  · exact congrArg (fun p => { s.apu with pulse1 := p }) (Pulse.writeTimerHigh_eq s.cfg v _)
  · rfl
  · rfl
  · exact congrArg (fun p => { s.apu with pulse2 := p }) (Pulse.writeTimerLow_eq v _)
  · exact congrArg (fun p => { s.apu with pulse2 := p }) (Pulse.writeTimerHigh_eq s.cfg v _)

/-- Settles O40: the decode of each address, and the timer and length writes in the form of their rules. -/
theorem triangleAndNoiseRegisterWrites : Obligations.TriangleAndNoiseRegisterWrites := by
  intro s v t n len
  refine ⟨?_, ?_, ?_, ?_, ?_, ?_⟩ <;> refine memWrite_of_apuWrite (by decide) (by decide) ?_
  · rfl
  · exact congrArg (fun u => { s.apu with triangle := u }) (Triangle.writeTimerLow_eq v t)
  · exact congrArg (fun u => { s.apu with triangle := u }) (Triangle.writeTimerHigh_eq s.cfg v t)
  · rfl
  · rfl
  · exact congrArg (fun u => { s.apu with noise := u }) (Noise.writeLength_eq s.cfg v n)

/-- Settles O41: the decode of each address; the direct load is the only field whose rule is arithmetic. -/
theorem dmcAndModeRegisterWrites : Obligations.DmcAndModeRegisterWrites := by
  intro s v d
  refine ⟨?_, ?_, ?_, ?_, memWrite_frameMode v s, ?_, ?_, ?_⟩ <;>
    refine memWrite_of_apuWrite (by decide) (by decide) ?_
  · rfl
  · exact congrArg (fun e => { s.apu with dmc := e }) (Dmc.writeLevel_eq v d)
  · rfl
  · rfl
  · rfl
  · rfl
  · rfl

theorem Dmc.restart_eq (d : Dmc) : d.restart = { d with
    curAddr := BitVec.ofNat 16 (0xC000 + 64 * d.addrReg.toNat)
    bytesRemaining := 16 * d.lenReg.toNat + 1 } := by
  have haddr : (0xC000 : Word) + 64 * d.addrReg.setWidth 16 = BitVec.ofNat 16 (0xC000 + 64 * d.addrReg.toNat) := by
    bv_omega
  rw [Dmc.restart, haddr]

/-- Settles O42, by what the DMC's part of the write can do. -/
theorem channelEnableWrites : Obligations.ChannelEnableWrites := by
  intro s v
  refine ⟨_, memWrite_apu (by decide) (by decide) v s, rfl, ?_⟩
  show (_ → _ → s.apu.dmc.writeEnable (v.getLsbD 4) = _) ∧ (_ → _ → s.apu.dmc.writeEnable (v.getLsbD 4) = _) ∧
    (_ → s.apu.dmc.writeEnable (v.getLsbD 4) = _)
  rcases s.apu.dmc.writeEnable_cases (v.getLsbD 4) with ⟨hon, hb, h⟩ | ⟨hon, hb, h⟩ | ⟨hoff, h⟩
  · rw [h, hon, Dmc.restart_eq]
    exact ⟨fun _ _ => rfl, fun _ hp => absurd hb hp.ne', nofun⟩
  · rw [h, hon]
    exact ⟨fun _ hz => absurd hz hb.ne', fun _ _ => rfl, nofun⟩
  · rw [h, hoff]
    exact ⟨nofun, nofun, fun _ => rfl⟩

end Sys2Proof.Machine
end

section
/-! PROOFS. The statements about the channels (47_apu_channels.md) and the invariant of a step: what a channel does in one
period of clocks (R281, R291, R296), the DMC clock in each of its cases (R306, R307), and the invariant (R296, R307,
R308). -/

namespace Sys2Proof.Machine

/-! ### The invariant -/

/-- Settles O60: what every step keeps, read off for each part of the invariant. -/
theorem stepKeepsTheInvariant : Obligations.StepKeepsTheInvariant := by
  intro s t hs h
  have hk := step_keeps h
  have hc := Config.facts hs.configured
  exact
    { configured := hk.cfg ▸ hs.configured
      ram := hk.ram hc hs.ram
      image := by rw [ImageCanonical, hk.image]; exact hs.image
      apu := by rw [hk.cfg]; exact hk.apu hc hs.apu }

/-! ### Iterated clocks -/

theorem iterate_eq_natIterate {α : Type} (f : α → α) (n : Nat) (x : α) : iterate f n x = f^[n] x := by
  induction n generalizing x with
  | zero => rfl
  | succ n ih => exact ih (f x)

theorem iterate_fixed {α : Type} {f : α → α} {x : α} (h : f x = x) (n : Nat) : iterate f n x = x := by
  rw [iterate_eq_natIterate, Function.iterate_fixed h]

/-- One period of a channel: `x k` is the channel with `k` clocks to go, so a clock that reloads `n` of them and `n` more
end at `x 0`. -/
theorem iterate_period {α : Type} {f : α → α} (x : Nat → α) {n : Nat} {y : α} (hreload : f y = x n)
    (hcount : ∀ k < n, f (x (k + 1)) = x k) : iterate f (n + 1) y = x 0 := by
  rw [iterate, hreload]
  clear hreload
  induction n with
  | zero => rfl
  | succ n ih =>
    rw [iterate, hcount n n.lt_succ_self]
    exact ih fun k hk => hcount k (hk.trans n.lt_succ_self)

/-! ### Pulse (R281) -/

theorem Pulse.clock_silent {c : Config} {p : Pulse} (h : p.period.toNat < c.pulseMinPeriod) : p.clock c = p :=
  if_pos h

theorem Pulse.clock_reload {c : Config} {p : Pulse} (h : c.pulseMinPeriod ≤ p.period.toNat) (ht : p.timer = 0) :
    p.clock c = { p with timer := 2 * p.period.toNat + 1, step := p.step + 1 } := by
  rw [Pulse.clock, if_neg (not_lt.2 h), if_pos ht]
  rfl

theorem Pulse.clock_count {c : Config} {p : Pulse} (h : c.pulseMinPeriod ≤ p.period.toNat) (k : Nat) :
    Pulse.clock c { p with timer := k + 1 } = { p with timer := k } := by
  rw [Pulse.clock, if_neg (not_lt.2 h), if_neg k.succ_ne_zero]
  rfl

theorem Pulse.clock_period {c : Config} {p : Pulse} (ht : p.timer = 0) (h : c.pulseMinPeriod ≤ p.period.toNat) :
    iterate (Pulse.clock c) (2 * (p.period.toNat + 1)) p = { p with step := p.step + 1 } := by
  calc iterate (Pulse.clock c) (2 * p.period.toNat + 1 + 1) p
      = { p with timer := 0, step := p.step + 1 } :=
        iterate_period (fun k => { p with timer := k, step := p.step + 1 }) (Pulse.clock_reload h ht)
          fun k _ => Pulse.clock_count (p := { p with step := p.step + 1 }) h k
    _ = { p with step := p.step + 1 } := by rw [← ht]

/-! ### Triangle (R291) -/

theorem Triangle.clock_silent {c : Config} {t : Triangle} (h : t.period.toNat < c.triMinPeriod) : t.clock c = t :=
  if_pos h

theorem Triangle.clock_reload {c : Config} {t : Triangle} (h : c.triMinPeriod ≤ t.period.toNat) (ht : t.timer = 0) :
    t.clock c = { t with
      timer := t.period, step := if 0 < t.length ∧ 0 < t.lin then t.step + 1 else t.step } := by
  rw [Triangle.clock, if_neg (not_lt.2 h), if_pos ht]

theorem Triangle.clock_count {c : Config} {t : Triangle} (h : c.triMinPeriod ≤ t.period.toNat) {k : Nat}
    (hk : k < t.period.toNat) :
    Triangle.clock c { t with timer := BitVec.ofNat 11 (k + 1) } = { t with timer := BitVec.ofNat 11 k } := by
  have hp := t.period.isLt
  have hne : BitVec.ofNat 11 (k + 1) ≠ 0 := by bv_omega
  have hpred : BitVec.ofNat 11 (k + 1) - 1 = BitVec.ofNat 11 k := by bv_omega
  rw [Triangle.clock, if_neg (not_lt.2 h), if_neg hne, hpred]

theorem Triangle.clock_period {c : Config} {t : Triangle} (ht : t.timer = 0) (h : c.triMinPeriod ≤ t.period.toNat) :
    iterate (Triangle.clock c) (t.period.toNat + 1) t =
      { t with step := if 0 < t.length ∧ 0 < t.lin then t.step + 1 else t.step } := by
  generalize hstep : (if 0 < t.length ∧ 0 < t.lin then t.step + 1 else t.step) = j
  have hreload : t.clock c = { t with timer := BitVec.ofNat 11 t.period.toNat, step := j } := by
    rw [Triangle.clock_reload h ht, hstep, BitVec.ofNat_toNat, BitVec.setWidth_eq]
  calc iterate (Triangle.clock c) (t.period.toNat + 1) t
      = { t with timer := 0, step := j } :=
        iterate_period (fun k => { t with timer := BitVec.ofNat 11 k, step := j }) hreload
          fun k hk => Triangle.clock_count (t := { t with step := j }) h hk
    _ = { t with step := j } := by rw [← ht]

/-- With a counter at zero the sequence stands still (R291). -/
theorem Triangle.not_running {t : Triangle} (h : t.length = 0 ∨ t.lin = 0) : ¬ (0 < t.length ∧ 0 < t.lin) := by
  rintro ⟨hlength, hlin⟩
  rcases h with h | h
  · exact hlength.ne' h
  · exact absurd (h ▸ hlin) (by decide)

/-- A triangle clock leaves both counters. -/
theorem Triangle.clock_counters (c : Config) (t : Triangle) :
    (t.clock c).length = t.length ∧ (t.clock c).lin = t.lin := by
  refine ⟨t.clock_length, ?_⟩
  unfold Triangle.clock
  split
  · rfl
  · split <;> rfl

theorem Triangle.clock_step {t : Triangle} (h : t.length = 0 ∨ t.lin = 0) (c : Config) :
    (t.clock c).step = t.step := by
  unfold Triangle.clock
  split
  · rfl
  · split
    · exact if_neg (Triangle.not_running h)
    · rfl

theorem Triangle.iterate_clock_step {t : Triangle} (h : t.length = 0 ∨ t.lin = 0) (c : Config) (k : Nat) :
    (iterate (Triangle.clock c) k t).step = t.step := by
  induction k generalizing t with
  | zero => rfl
  | succ k ih =>
    obtain ⟨hlength, hlin⟩ := t.clock_counters c
    exact (ih (by rwa [hlength, hlin])).trans (Triangle.clock_step h c)

/-! ### Noise (R296) -/

theorem Noise.clock_reload {c : Config} {n : Noise} {k : Nat} (ht : n.timer = 0)
    (hk : c.noisePeriod[n.periodIndex.toNat]? = some (k + 1)) :
    n.clock c = { n with timer := k, lfsr := noiseShift n.mode n.lfsr } := by
  obtain ⟨hlt, hperiod⟩ := Vector.getElem?_eq_some_iff.1 hk
  rw [Noise.clock, if_pos ht, hperiod]
  rfl

theorem Noise.clock_count (c : Config) (n : Noise) (k : Nat) :
    Noise.clock c { n with timer := k + 1 } = { n with timer := k } :=
  if_neg k.succ_ne_zero

theorem Noise.clock_period {c : Config} {n : Noise} {k : Nat} (ht : n.timer = 0)
    (hk : c.noisePeriod[n.periodIndex.toNat]? = some (k + 1)) :
    iterate (Noise.clock c) (k + 1) n = { n with lfsr := noiseShift n.mode n.lfsr } := by
  calc iterate (Noise.clock c) (k + 1) n
      = { n with timer := 0, lfsr := noiseShift n.mode n.lfsr } :=
        iterate_period (fun j => { n with timer := j, lfsr := noiseShift n.mode n.lfsr }) (Noise.clock_reload ht hk)
          fun j _ => Noise.clock_count c { n with lfsr := noiseShift n.mode n.lfsr } j
    _ = { n with lfsr := noiseShift n.mode n.lfsr } := by rw [← ht]

/-- Settles O48: each channel's period as a reload and its countdown, and the fixed points of the frozen cases. -/
theorem channelsStepOncePerPeriod : Obligations.ChannelsStepOncePerPeriod := by
  refine ⟨fun c p => Pulse.clock_period, fun c t ht h => ⟨fun hlength hlin => ?_, fun hzero => ?_⟩,
    fun c t k h => Triangle.iterate_clock_step h c k, fun c n k ht hk => ?_,
    fun c p k h => iterate_fixed (Pulse.clock_silent h) k, fun c t k h => iterate_fixed (Triangle.clock_silent h) k⟩
  · rw [Triangle.clock_period ht h, if_pos ⟨hlength, hlin⟩]
  · rw [Triangle.clock_period ht h, if_neg (Triangle.not_running hzero)]
  · rw [Noise.clock_period ht hk, noiseShift_eq]
    rfl

/-! ### The DMC (R306, R307) -/

theorem Dmc.reloadTimer_eq (c : Config) (d : Dmc) :
    d.reloadTimer c = { d with timer := c.dmcRate[d.rateIndex.toNat]?.getD 0 - 1 } := by
  rw [Vector.getElem?_eq_getElem d.rateIndex.isLt, Option.getD_some]
  rfl

theorem Dmc.outputBit_of_pos {d : Dmc} (h : 0 < d.bitsLeft) : d.outputBit = { d with
    level := if d.shift.getLsbD 0 then min 63 (d.level + 1) else d.level - 1
    shift := d.shift >>> 1
    bitsLeft := d.bitsLeft - 1 } :=
  if_pos h

theorem Dmc.outputBit_of_empty {d : Dmc} (h : d.bitsLeft = 0) : d.outputBit = d :=
  if_neg (by omega)

/-- A fetch with bytes remaining: at the last byte of a looping sample it restarts, otherwise it moves on by one byte
(R306, R307). -/
theorem Dmc.loadByte_eq (c : Config) (b : Byte) {d : Dmc} (h : 0 < d.bytesRemaining) : d.loadByte c b = { d with
    shift := b
    bitsLeft := 8
    stallPending := d.stallPending + c.dmcStall
    curAddr := if d.bytesRemaining = 1 ∧ d.loop = true then BitVec.ofNat 16 (0xC000 + 64 * d.addrReg.toNat)
      else if d.curAddr = 0xFFFF then 0x8000 else d.curAddr + 1
    bytesRemaining := if d.bytesRemaining = 1 ∧ d.loop = true then 16 * d.lenReg.toNat + 1
      else d.bytesRemaining - 1 } := by
  have hlast : d.bytesRemaining - 1 = 0 ∧ d.loop = true ↔ d.bytesRemaining = 1 ∧ d.loop = true :=
    and_congr_left fun _ => by omega
  unfold Dmc.loadByte
  simp only [hlast]
  split
  · rw [Dmc.restart_eq]
  · rfl

/-- A running timer counts down. -/
theorem dmcClock_of_pos {s : State} (h : 0 < s.apu.dmc.timer) :
    s.dmcClock = .next (s.withDmc { s.apu.dmc with timer := s.apu.dmc.timer - 1 }) :=
  if_pos h

/-- An expired timer with no byte to fetch: reload and output. -/
theorem dmcClock_of_not_wantsByte {s : State} (ht : s.apu.dmc.timer = 0) (hw : s.apu.dmc.wantsByte = false) :
    s.dmcClock = .next (s.withDmc (s.apu.dmc.reloadTimer s.cfg).outputBit) := by
  have hreload : (s.apu.dmc.reloadTimer s.cfg).wantsByte = false := hw
  simp only [State.dmcClock, ht, lt_irrefl, hreload, if_false, Bool.false_eq_true]

/-- An expired timer with a byte to fetch, which the memory gives: reload, fetch and output. -/
theorem dmcClock_of_fetch {s : State} {b : Byte} (ht : s.apu.dmc.timer = 0) (hw : s.apu.dmc.wantsByte = true)
    (hb : s.memRead s.apu.dmc.curAddr = .ok b) :
    s.dmcClock = .next (s.withDmc ((s.apu.dmc.reloadTimer s.cfg).loadByte s.cfg b).outputBit) := by
  have hreload : (s.apu.dmc.reloadTimer s.cfg).wantsByte = true := hw
  have hread : s.memRead (s.apu.dmc.reloadTimer s.cfg).curAddr = .ok b := hb
  simp only [State.dmcClock, ht, lt_irrefl, hreload, hread, if_false, if_true]

/-- An expired timer with a byte to fetch, whose read faults: the clock stops there, after the reload (R374, log
entry 10). -/
theorem dmcClock_of_fetch_error {s : State} {f : CoreFault} (ht : s.apu.dmc.timer = 0)
    (hw : s.apu.dmc.wantsByte = true) (hf : s.memRead s.apu.dmc.curAddr = .error f) :
    s.dmcClock = (s.withDmc (s.apu.dmc.reloadTimer s.cfg)).raise f := by
  have hreload : (s.apu.dmc.reloadTimer s.cfg).wantsByte = true := hw
  have hread : s.memRead (s.apu.dmc.reloadTimer s.cfg).curAddr = .error f := hf
  simp only [State.dmcClock, ht, lt_irrefl, hreload, hread, if_false, if_true]

theorem Dmc.wantsByte_iff {d : Dmc} : d.wantsByte = true ↔ d.bitsLeft = 0 ∧ 0 < d.bytesRemaining := by
  simp only [Dmc.wantsByte, Bool.and_eq_true, decide_eq_true_eq]

theorem Dmc.wantsByte_eq_false_iff {d : Dmc} : d.wantsByte = false ↔ (d.bitsLeft = 0 → d.bytesRemaining = 0) := by
  rw [← Bool.not_eq_true, Dmc.wantsByte_iff]
  omega

/-- Settles O50, by the cases of R307: the timer, the buffered bits, the bytes remaining, the answer of the read. -/
theorem dmcFetchesAndPlays : Obligations.DmcFetchesAndPlays := by
  intro s d become moved reloaded
  have hreload : s.apu.dmc.reloadTimer s.cfg = reloaded := Dmc.reloadTimer_eq ..
  refine ⟨dmcClock_of_pos, fun ht hbits => ?_, fun ht hempty hdone => ?_, fun ht hempty hbytes => ?_⟩
  · have hno : d.wantsByte = false := Dmc.wantsByte_eq_false_iff.2 fun h => absurd h hbits.ne'
    rw [dmcClock_of_not_wantsByte ht hno, hreload, Dmc.outputBit_of_pos (d := reloaded) hbits]
    rfl
  · have hno : d.wantsByte = false := Dmc.wantsByte_eq_false_iff.2 fun _ => hdone
    rw [dmcClock_of_not_wantsByte ht hno, hreload, Dmc.outputBit_of_empty (d := reloaded) hempty]
    rfl
  · have hwants : d.wantsByte = true := Dmc.wantsByte_iff.2 ⟨hempty, hbytes⟩
    refine ⟨fun b hb => ?_, fun f hf => ?_⟩
    · intro restarts
      have hbits : 0 < (reloaded.loadByte s.cfg b).bitsLeft := Nat.succ_pos 7
      rw [dmcClock_of_fetch ht hwants hb, hreload, Dmc.outputBit_of_pos hbits,
        Dmc.loadByte_eq (d := reloaded) s.cfg b hbytes]
      rfl
    · rw [dmcClock_of_fetch_error ht hwants hf, hreload]
      rfl

end Sys2Proof.Machine
end

section
/-! PROOFS. The statements about the APU tick, the mixer and the sample clock (48_mixer_sample_clock.md): the channel
clocks of a tick (R315, R342), the play driver (R345), the sample and its bound (R330, R331), and NextSample (R341, R348,
R381). -/

namespace Sys2Proof.Machine

/-! ### The APU tick (R315, R342) -/

/-- The APU after `n` clocks of the four channels that read no memory, with the DMC `d` (R315). -/
def Apu.clocked (c : Config) (n : Nat) (d : Dmc) (p : Apu) : Apu where
  pulse1 := iterate (Pulse.clock c) n p.pulse1
  pulse2 := iterate (Pulse.clock c) n p.pulse2
  triangle := iterate (Triangle.clock c) n p.triangle
  noise := iterate (Noise.clock c) n p.noise
  dmc := d
  seq := p.seq

/-- The first of `n + 1` clocks, then the rest: the DMC that the first one leaves does not count. -/
theorem Apu.clocked_succ (c : Config) (n : Nat) (d e : Dmc) (p : Apu) :
    p.clocked c (n + 1) d = (p.clocked c 1 e).clocked c n d :=
  rfl

theorem dmcClocks_succ {n : Nat} {s u : State} (h : dmcClocks (n + 1) s = .next u) :
    ∃ t, s.dmcClock = .next t ∧ dmcClocks n t = .next u := by
  rw [dmcClocks] at h
  cases ht : s.dmcClock with
  | next t => exact ⟨t, rfl, by rwa [ht] at h⟩
  | fault f => rw [ht] at h; cases h
  | refused r => rw [ht] at h; cases h

theorem dmcClocks_of_next {n : Nat} {s t : State} (h : s.dmcClock = .next t) :
    dmcClocks (n + 1) s = dmcClocks n t := by
  rw [dmcClocks, h]

section
variable {s : State} {q : Apu} (hq : q.dmc = s.apu.dmc)
include hq

/-- A processor clock of an APU whose DMC is that of `s`: its DMC does what the DMC clock of `s` does. -/
theorem clockChannels_of_next {t : State} (h : s.dmcClock = .next t) :
    State.clockChannels { s with apu := q } = .next { t with apu := q.clocked s.cfg 1 t.apu.dmc } := by
  obtain ⟨hnext, -, -⟩ := dmcClock_waves s (q.clockWaves s.cfg) hq
  obtain ⟨ht, hclock⟩ := hnext t h
  rw [ht]
  exact hclock

theorem clockChannels_of_fault {f : CoreFault} {v : State} (h : s.dmcClock = .fault (.core f v)) :
    State.clockChannels { s with apu := q } =
      State.stopsAt { s with apu := q.clocked s.cfg 1 v.apu.dmc } f := by
  obtain ⟨-, hfault, -⟩ := dmcClock_waves s (q.clockWaves s.cfg) hq
  exact hfault f v h

end

/-- A DMC clock changes the DMC alone. -/
theorem dmcClock_next {s t : State} (h : s.dmcClock = .next t) : t = s.withDmc t.apu.dmc :=
  ((dmcClock_waves s s.apu rfl).1 t h).1

/-- Where `n` DMC clocks alone answer a next state, so do `n` processor clocks, each channel with its own clocks. -/
theorem clockTimes_of_dmcClocks {n : Nat} {s u : State} {q : Apu} (hq : q.dmc = s.apu.dmc)
    (h : dmcClocks n s = .next u) :
    clockTimes n { s with apu := q } = .next { s with apu := q.clocked s.cfg n u.apu.dmc } := by
  induction n generalizing s q with
  | zero =>
    cases h
    rw [← hq]
    rfl
  | succ n ih =>
    obtain ⟨t, ht, hu⟩ := dmcClocks_succ h
    rw [clockTimes, clockChannels_of_next hq ht, Apu.clocked_succ _ _ _ t.apu.dmc]
    refine (ih (q := q.clocked s.cfg 1 t.apu.dmc) rfl hu).trans ?_
    rw [dmcClock_next ht]
    rfl

/-- Where the DMC clock after `j` others faults, the processor clocks end there, the other channels with `j + 1` clocks. -/
theorem clockTimes_of_dmc_fault {j m : Nat} {s u v : State} {f : CoreFault} {q : Apu} (hq : q.dmc = s.apu.dmc)
    (h : dmcClocks j s = .next u) (hv : u.dmcClock = .fault (.core f v)) :
    clockTimes (j + 1 + m) { s with apu := q } =
      State.stopsAt { s with apu := q.clocked s.cfg (j + 1) v.apu.dmc } f := by
  rw [Nat.add_right_comm, clockTimes]
  induction j generalizing s q with
  | zero =>
    cases h
    rw [clockChannels_of_fault hq hv]
    rfl
  | succ j ih =>
    obtain ⟨t, ht, hu⟩ := dmcClocks_succ h
    rw [clockChannels_of_next hq ht, Apu.clocked_succ _ _ _ t.apu.dmc, Nat.add_right_comm]
    refine (ih (q := q.clocked s.cfg 1 t.apu.dmc) rfl hu).trans ?_
    rw [dmcClock_next ht]
    rfl

/-- `n` DMC clocks answer a next state, or one of them faults. -/
theorem dmcClocks_next_or_fault (n : Nat) (s : State) :
    (∃ u, dmcClocks n s = .next u) ∨
      ∃ j u v f, j < n ∧ dmcClocks j s = .next u ∧ u.dmcClock = .fault (.core f v) := by
  induction n generalizing s with
  | zero => exact .inl ⟨s, rfl⟩
  | succ n ih =>
    rcases nextOrFault_dmcClock s with ⟨t, ht⟩ | ⟨f, v, hv, -⟩
    · rcases ih t with ⟨u, hu⟩ | ⟨j, u, v, f, hj, hu, hv⟩
      · exact .inl ⟨u, (dmcClocks_of_next ht).trans hu⟩
      · exact .inr ⟨j + 1, u, v, f, Nat.succ_lt_succ hj, (dmcClocks_of_next ht).trans hu, hv⟩
    · exact .inr ⟨0, s, v, f, n.succ_pos, rfl, hv⟩

/-- With P_BANK_OOR = Zero no fetch of the DMC can fault (R373). -/
theorem dmcClocks_ok {s : State} (h : s.cfg.bankOor = .zero) (n : Nat) : ∃ u, dmcClocks n s = .next u := by
  induction n generalizing s with
  | zero => exact ⟨s, rfl⟩
  | succ n ih =>
    rcases dmcClock_cases s with ⟨d, hd, -⟩ | ⟨d, f, hf, -⟩
    · rw [dmcClocks_of_next hd]
      exact ih (s := s.withDmc d) h
    · obtain ⟨b, hb⟩ := memRead_ok h s.apu.dmc.curAddr
      cases hb.symm.trans hf

theorem apuTick_of_dmcClocks {k : Nat} {s u : State}
    (h : dmcClocks k { s with apu := s.apu.advanceFrame s.cfg k } = .next u) :
    s.apuTick k = .next { s with apu := (s.apu.advanceFrame s.cfg k).clocked s.cfg k u.apu.dmc } :=
  clockTimes_of_dmcClocks (s := { s with apu := s.apu.advanceFrame s.cfg k }) rfl h

theorem apuTick_ok {s : State} (h : s.cfg.bankOor = .zero) (k : Nat) : ∃ t, s.apuTick k = .next t := by
  obtain ⟨u, hu⟩ := dmcClocks_ok (s := { s with apu := s.apu.advanceFrame s.cfg k }) h k
  exact ⟨_, apuTick_of_dmcClocks hu⟩

/-- Settles O49: the tick's clocks, told apart by what the DMC clocks alone do. -/
theorem tickClocksEveryChannel : Obligations.TickClocksEveryChannel := by
  intro s k p start ticked
  refine ⟨fun u hu => apuTick_of_dmcClocks hu, fun j u v f hj hu hv => ?_, dmcClocks_next_or_fault k start,
    fun h => apuTick_ok h k⟩
  obtain ⟨m, rfl⟩ : ∃ m, k = j + 1 + m := Nat.exists_eq_add_of_le hj
  exact clockTimes_of_dmc_fault (s := start) rfl hu hv

/-! ### The mixer (R330, R331) -/

theorem Envelope.out_toNat (e : Envelope) :
    e.out.toNat = if e.constVol = true then e.vol.toNat else e.decay.toNat :=
  apply_ite BitVec.toNat ..

theorem Pulse.amp_eq (c : Config) (p : Pulse) :
    p.amp c = if p.length = 0 ∨ p.period.toNat < c.pulseMinPeriod ∨ p.sweep.mute = true then 0
      else (c.duty[p.duty.toNat]'p.duty.isLt)[p.step.toNat]'p.step.isLt * p.env.out.toNat := by
  simp only [Pulse.amp, ite_or]

theorem Noise.amp_eq (n : Noise) :
    n.amp = if n.length = 0 ∨ n.lfsr.getLsbD 14 = true then 0 else n.env.out.toNat := by
  simp only [Noise.amp, ite_or]

theorem sample_of_no_expansion {s : State} (h : s.expansionMask = 0) : s.sample = s.apu.mix s.cfg := by
  rw [State.sample, State.expansionTerm, if_pos h, add_zero]

/-- Settles O51: the mix, with each amplitude in the form of its rule. -/
theorem sampleMixesTheAmplitudes : Obligations.SampleMixesTheAmplitudes := by
  intro s h
  rw [sample_of_no_expansion h, Apu.mix, Pulse.amp_eq, Pulse.amp_eq, Noise.amp_eq]
  simp only [Envelope.out_toNat]
  rfl

theorem Pulse.amp_le {c : Config} (hc : c.Facts) (p : Pulse) : p.amp c ≤ 15 := by
  have hduty : (c.duty[p.duty.toNat]'p.duty.isLt)[p.step.toNat]'p.step.isLt ≤ 1 :=
    hc.duty ⟨p.duty.toNat, p.duty.isLt⟩ ⟨p.step.toNat, p.step.isLt⟩
  have hout : p.env.out.toNat ≤ 15 := Nat.le_of_lt_succ p.env.out.isLt
  rw [Pulse.amp_eq]
  split
  · exact Nat.zero_le 15
  · exact Nat.mul_le_mul hduty hout

theorem Triangle.amp_le (t : Triangle) : t.amp ≤ 15 := by
  have hstep := t.step.isLt
  unfold Triangle.amp triangleSequence
  split <;> omega

theorem Noise.amp_le (n : Noise) : n.amp ≤ 15 := by
  rw [Noise.amp_eq]
  split
  · exact Nat.zero_le 15
  · exact Nat.le_of_lt_succ n.env.out.isLt

theorem gate_mem {amp bound : Nat} (h : amp ≤ bound) (on : Bool) : 0 ≤ gate on amp ∧ gate on amp ≤ bound := by
  cases on with
  | false => exact ⟨le_rfl, Nat.cast_nonneg bound⟩
  | true => exact ⟨Nat.cast_nonneg amp, Nat.cast_le.2 h⟩

/-- Settles O52: the bounds of the amplitudes, summed with the weights. -/
theorem sampleIsBounded : Obligations.SampleIsBounded := by
  intro s hs hx
  have hc := Config.facts hs.configured
  have h1 := s.apu.pulse1.amp_le hc
  have h2 := s.apu.pulse2.amp_le hc
  have ht := s.apu.triangle.amp_le
  have hn := s.apu.noise.amp_le
  obtain ⟨-, -, -, -, ⟨hlevel, -⟩, -⟩ := hs.apu
  have hd : s.apu.dmc.amp ≤ 63 := hlevel
  refine ⟨h1, h2, ht, hn, hd, fun wp wt wn wd => ?_⟩
  obtain ⟨l1, u1⟩ := gate_mem h1 s.apu.pulse1.enabled
  obtain ⟨l2, u2⟩ := gate_mem h2 s.apu.pulse2.enabled
  obtain ⟨lt, ut⟩ := gate_mem ht s.apu.triangle.enabled
  obtain ⟨ln, un⟩ := gate_mem hn s.apu.noise.enabled
  obtain ⟨ld, ud⟩ := gate_mem hd s.apu.dmc.enabled
  rw [sample_of_no_expansion hx, Apu.mix, wp, wt, wn, wd]
  push_cast at u1 u2 ut un ud
  constructor <;> linarith

/-! ### The play driver (R345) -/

theorem playDriver_short {s : State} (h : s.frameClock + s.cost < s.cfg.playPeriod) :
    s.playDriver = { s with frameClock := s.frameClock + s.cost } :=
  if_neg (not_le.2 h)

theorem playDriver_boundary {s : State} (h : s.cfg.playPeriod ≤ s.frameClock + s.cost) :
    let t : State := { s with frameClock := s.frameClock + s.cost - s.cfg.playPeriod }
    s.playDriver = if t.halted then t.playCall else t :=
  if_pos h

theorem playCall_eq {s : State} {im : Image} (him : s.image = some im) :
    s.playCall = { s with
      ram := (s.ram.write (s.stackCell s.sp) (highByte (s.cfg.sentinelPlay - 1))).write (s.stackCell (s.sp - 1))
        (lowByte (s.cfg.sentinelPlay - 1))
      sp := s.sp - 2
      pc := im.playAddr
      halted := false } := by
  rw [State.playCall, push16_eq, State.playAddr, him]

/-- Settles O37: the three cases of the driver. -/
theorem playDriverCallsAtTheBoundary : Obligations.PlayDriverCallsAtTheBoundary := by
  intro s im him cell
  refine ⟨playDriver_short, fun h hbusy => ?busy, fun h hhalted => ?call⟩
  case busy =>
    rw [playDriver_boundary h, hbusy]
    exact if_neg Bool.false_ne_true
  case call =>
    rw [playDriver_boundary h, hhalted]
    exact (if_pos rfl).trans (playCall_eq him)

/-! ### NextSample (R341, R348, R381) -/

/-- The state after a step, with the cost of the step off the debt (R341). -/
def State.paid (t : State) : State :=
  { t with debt := t.debt - t.cost }

/-- The state whose debt has taken the quota of a sample (R340, R341). -/
def State.owing (rate : Rat) (s : State) : State :=
  { s with debt := s.debt + quota s.cfg rate }

theorem payDebt_of_le {s : State} (h : s.debt ≤ 0) (fuel : Nat) : payDebt fuel s = .next s := by
  cases fuel with
  | zero => rfl
  | succ n => exact if_pos h

theorem payDebt_of_next {s t : State} (h : 0 < s.debt) (ht : step s = .next t) (fuel : Nat) :
    payDebt (fuel + 1) s = payDebt fuel t.paid := by
  rw [payDebt, if_neg (not_le.2 h), ht]
  rfl

theorem payDebt_of_fault {s : State} {f : Fault} (h : 0 < s.debt) (hf : step s = .fault f) (fuel : Nat) :
    payDebt (fuel + 1) s = .fault f := by
  rw [payDebt, if_neg (not_le.2 h), hf]

/-- `u 0, …, u n` is a run of the loop of R341 from `s`: each state but the last owes, and its step is paid for. -/
structure DebtRun (s : State) (n : Nat) (u : Nat → State) : Prop where
  first : u 0 = s
  pays : ∀ j, j < n → 0 < (u j).debt ∧ ∃ t, step (u j) = .next t ∧ u (j + 1) = t.paid
  last : n = 0 ∨ -((u n).cost : Rat) < (u n).debt

/-- The sequence `u` with `s` before it. -/
def prepend (s : State) (u : Nat → State) : Nat → State
  | 0 => s
  | j + 1 => u j

theorem DebtRun.stay (s : State) : DebtRun s 0 fun _ => s where
  first := rfl
  pays := fun _ hj => absurd hj (Nat.not_lt_zero _)
  last := .inl rfl

theorem DebtRun.cons {s t : State} {n : Nat} {u : Nat → State} (hs : 0 < s.debt) (ht : step s = .next t)
    (h : DebtRun t.paid n u) : DebtRun s (n + 1) (prepend s u) where
  first := rfl
  pays := fun j hj => by
    cases j with
    | zero => exact ⟨hs, t, ht, h.first⟩
    | succ j => exact h.pays j (Nat.lt_of_succ_lt_succ hj)
  last := by
    refine .inr ?_
    show -((u n).cost : Rat) < (u n).debt
    rcases h.last with rfl | hlast
    · have hdebt : t.debt = s.debt := (step_keeps ht).debt
      rw [h.first]
      show -(t.cost : Rat) < t.debt - t.cost
      linarith
    · exact hlast

/-- How the loop of R341 ends at `v`: it owes nothing, or the step of an owing state faults. -/
def EndsAt (v : State) (r : Result) : Prop :=
  (v.debt ≤ 0 ∧ r = .next v) ∨
    ∃ f t, 0 < v.debt ∧ step v = .fault (.core f t) ∧ r = .fault (.core f t) ∧ t.fault = some f

/-- A step costs at least one clock, so a fuel of at least the debt ends the loop (R341). -/
theorem payDebt_run {fuel : Nat} {s : State} (hc : s.cfg.Facts) (hs : s.started = true) (hfuel : s.debt ≤ fuel) :
    ∃ n u, DebtRun s n u ∧ EndsAt (u n) (payDebt fuel s) := by
  induction fuel generalizing s with
  | zero => exact ⟨0, _, DebtRun.stay s, .inl ⟨by simpa using hfuel, rfl⟩⟩
  | succ fuel ih =>
    rcases le_or_gt s.debt 0 with hle | hlt
    · exact ⟨0, _, DebtRun.stay s, .inl ⟨hle, payDebt_of_le hle _⟩⟩
    rcases nextOrFault_step s hs with ⟨t, ht⟩ | ⟨f, t, ht, hf⟩
    · have hk := step_keeps ht
      have hcost : (1 : Rat) ≤ t.cost := Nat.one_le_cast.2 (step_cost_pos hc ht)
      have hdebt : t.debt - t.cost ≤ fuel := by
        rw [hk.debt]
        push_cast at hfuel
        linarith
      obtain ⟨n, u, hrun, hend⟩ := ih (s := t.paid) (by exact hk.cfg ▸ hc) (hk.started.trans hs) hdebt
      rw [payDebt_of_next hlt ht]
      exact ⟨n + 1, prepend s u, hrun.cons hlt ht, hend⟩
    · exact ⟨0, _, DebtRun.stay s, .inr ⟨f, t, hlt, ht, payDebt_of_fault hlt ht _, hf⟩⟩

/-- What NextSample makes of the end of the loop of R341: the sample of the state that owes nothing. -/
def sampled : Result → Host.Outcome Sampled Fault Refusal
  | .next t => .next ⟨t.sample, t⟩
  | .fault f => .fault f
  | .refused r => .refused r

theorem le_ceil_toNat (q : Rat) : q ≤ (q.ceil.toNat : Nat) :=
  Rat.le_ceil.trans (by exact_mod_cast Int.self_le_toNat q.ceil)

theorem nextSample_of_not_rate {rate : Rat} (h : isSampleRate rate = false) (s : State) :
    nextSample rate s = .refused .rateNotPositiveInteger := by
  rw [nextSample, h]
  rfl

section
variable {rate : Rat} {s : State} (hr : isSampleRate rate = true) (hs : s.started = true)
include hr hs

theorem nextSample_of_fault {f : CoreFault} (hf : s.fault = some f) : nextSample rate s = .fault (.core f s) := by
  rw [nextSample, hr, hs, hf]
  rfl

theorem nextSample_of_silent (hf : s.fault = none) (hp : s.playing = false) : nextSample rate s = .next ⟨0, s⟩ := by
  rw [nextSample, hr, hs, hf, hp]
  rfl

/-- While the play flag is set, NextSample answers what the loop of R341 gives. -/
theorem nextSample_of_playing (hf : s.fault = none) (hp : s.playing = true) :
    nextSample rate s = sampled (payDebt (s.owing rate).debt.ceil.toNat (s.owing rate)) := by
  cases s
  subst hs hf hp
  rw [nextSample, hr]
  rfl

end

theorem EndsAt.answer {rate : Rat} {s v : State} {r : Result} (h : EndsAt v r)
    (hr : nextSample rate s = sampled r) :
    (v.debt ≤ 0 ∧ nextSample rate s = .next ⟨v.sample, v⟩) ∨
      ∃ f t, 0 < v.debt ∧ step v = .fault (.core f t) ∧ nextSample rate s = .fault (.core f t) ∧ t.fault = some f := by
  rcases h with ⟨hv, rfl⟩ | ⟨f, t, hv, ht, rfl, htf⟩
  · exact .inl ⟨hv, hr⟩
  · exact .inr ⟨f, t, hv, ht, hr, htf⟩

/-- Settles O58: the run of the loop from the owing state, whose fuel is enough. -/
theorem nextSamplePaysTheDebt : Obligations.NextSamplePaysTheDebt := by
  refine ⟨fun s rate hrate => ?refused, fun s rate hcfg hs hf hrate =>
    ⟨nextSample_of_silent (isSampleRate_natCast hrate) hs hf, fun hp => ?plays⟩⟩
  case refused =>
    have h := nextSample_of_not_rate (Bool.eq_false_iff.2 (mt isSampleRate_iff.1 hrate)) s
    exact ⟨h, by simp only [hostStep, h]⟩
  case plays =>
    have hsample := nextSample_of_playing (isSampleRate_natCast hrate) hs hf hp
    obtain ⟨n, u, ⟨hfirst, hpays, hlast⟩, hend⟩ :=
      payDebt_run (s := s.owing rate) (Config.facts hcfg) hs (le_ceil_toNat _)
    exact ⟨n, u, hfirst, hpays, hlast, hend.answer hsample⟩

end Sys2Proof.Machine
end

section
/-! PROOFS. The statements about the core faults (60_exceptions.md): the faults that a core can raise (R370, R371), and
that a faulted core stands still (R374). -/

namespace Sys2Proof.Machine

/-! ### A faulted core (R374) -/

theorem step_of_fault {s : State} {f : CoreFault} (hs : s.started = true) (hf : s.fault = some f) :
    step s = .fault (.core f s) := by
  rw [step, if_pos hs, hf]

/-- Settles O7: neither the step nor NextSample gets past the fault flag. -/
theorem faultedCoreIsStuck : Obligations.FaultedCoreIsStuck := by
  intro s f rate hs hf hrate
  have hsample := nextSample_of_fault (isSampleRate_natCast hrate) hs hf
  exact ⟨step_of_fault hs hf, hsample, by simp only [hostStep, hsample]⟩

/-! ### UnsupportedOpcode (R96, R225, R371) -/

theorem executeOne_of_fetch_error {s : State} {f : CoreFault} (hh : s.halted = false) (hf : s.fetch = .error f) :
    s.executeOne = s.stopsAt f := by
  rw [State.executeOne, if_neg (by rw [hh]; exact Bool.false_ne_true), hf]
  rfl

theorem runStep_of_executeOne_fault {s : State} {f : Fault} (h : s.executeOne = .fault f) : s.runStep = .fault f := by
  rw [State.runStep, h]

/-- An opcode with no row faults before any operand byte is read. -/
theorem fetch_of_no_row {s : State} {op : Byte} (hop : s.memRead s.pc = .ok op)
    (hrow : ∀ r ∈ opcodeTable, r.opcode ≠ op) : s.fetch = .error (.unsupportedOpcode s.pc op) := by
  have hlength : opcodeLength op = none := by rw [opcodeLength, findRow_none.2 hrow]; rfl
  simp only [State.fetch, hop, hlength]

theorem fetch_brk {s : State} (hop : s.memRead s.pc = .ok 0x00) : s.fetch = .ok .brk :=
  fetch_encode (fetchOperands_cons.2 ⟨hop, rfl⟩)

/-- Settles O6: the fetch of an opcode with no row faults, and so does BRK under P_BRK = Fault. -/
theorem unsupportedOpcodeFaults : Obligations.UnsupportedOpcodeFaults := by
  intro s op hs hf hh hop hcase
  rw [step_eq_runStep hs hf]
  refine runStep_of_executeOne_fault ?_
  rcases hcase with hrow | ⟨rfl, hbrk⟩
  · exact executeOne_of_fetch_error hh (fetch_of_no_row hop hrow)
  · exact (executeOne_of_fetch hh (fetch_brk hop)).trans (exec_brk_unsupported hbrk)

/-! ### The default fault parameters (R370) -/

theorem fetchOperands_ok {s : State} (h : s.cfg.bankOor = .zero) (n : Nat) (a : Word) :
    ∃ bs, s.fetchOperands a n = .ok bs := by
  induction n generalizing a with
  | zero => exact ⟨[], rfl⟩
  | succ n ih =>
    obtain ⟨b, hb⟩ := memRead_ok h a
    obtain ⟨bs, hbs⟩ := ih (a + 1)
    exact ⟨b :: bs, fetchOperands_cons.2 ⟨hb, hbs⟩⟩

/-- Where no read faults, a fetch can only meet an unsupported opcode. -/
theorem fetch_error {s : State} {f : CoreFault} (h : s.cfg.bankOor = .zero) (hf : s.fetch = .error f) :
    ∃ op, f = .unsupportedOpcode s.pc op := by
  obtain ⟨op, hop⟩ := memRead_ok h s.pc
  simp only [State.fetch, hop] at hf
  cases hlength : opcodeLength op with
  | none =>
    rw [hlength] at hf
    cases hf
    exact ⟨op, rfl⟩
  | some n =>
    obtain ⟨bs, hbs⟩ := fetchOperands_ok h (n - 1) (s.pc + 1)
    simp only [hlength, hbs] at hf
    split at hf
    · cases hf
    · cases hf
      exact ⟨op, rfl⟩

/-- The one instruction that is not supported everywhere is BRK under P_BRK = Fault (R225). -/
theorem eq_brk_of_not_wellFormed {c : Config} {i : Instr} (h : ¬ i.wellFormed c = true) :
    i = .brk ∧ c.brk = .fault := by
  unfold Instr.wellFormed at h
  cases hb : c.brk with
  | standard => rw [hb] at h; exact absurd rfl h
  | fault => rw [hb] at h; exact ⟨by simpa using h, rfl⟩

section
variable {s t : State} {f : CoreFault} (hbank : s.cfg.bankOor = .zero) (hwrite : s.cfg.unmappedWrite = .ignore)
  (hdec : s.cfg.decimal = .binary)
include hbank hwrite hdec

theorem exec_default_fault {i : Instr} (h : exec i s = .fault (.core f t)) : f = .unsupportedOpcode s.pc 0x00 := by
  by_cases hwf : i.wellFormed s.cfg = true
  · obtain ⟨u, hu⟩ := everyInstructionCompletes i s hbank hwrite hdec hwf
    cases hu.symm.trans h
  · obtain ⟨rfl, hbrk⟩ := eq_brk_of_not_wellFormed hwf
    cases (exec_brk_unsupported hbrk).symm.trans h
    rfl

theorem executeOne_default_fault (h : s.executeOne = .fault (.core f t)) : ∃ op, f = .unsupportedOpcode s.pc op := by
  cases hh : s.halted with
  | true => cases (executeOne_of_halted hh).symm.trans h
  | false =>
    cases hi : s.fetch with
    | error g =>
      cases (executeOne_of_fetch_error hh hi).symm.trans h
      exact fetch_error hbank hi
    | ok i => exact ⟨0x00, exec_default_fault hbank hwrite hdec ((executeOne_of_fetch hh hi).symm.trans h)⟩

end

/-- A step that faults does so in its ExecuteOne or in the APU tick after it (R342). -/
theorem step_fault {s t : State} {f : CoreFault} (hf : s.fault = none) (h : step s = .fault (.core f t)) :
    s.executeOne = .fault (.core f t) ∨
      ∃ u, s.executeOne = .next u ∧ u.playDriver.apuTick u.cost = .fault (.core f t) := by
  unfold step at h
  split at h
  case isFalse => cases h
  rw [hf] at h
  unfold State.runStep at h
  cases hu : s.executeOne with
  | next u => rw [hu] at h; exact .inr ⟨u, rfl, h⟩
  | fault g => rw [hu] at h; exact .inl h
  | refused r => rw [hu] at h; cases h

/-- Settles O36: of the parts of a step, only the fetch and BRK can fault. -/
theorem defaultFaultIsUnsupportedOpcode : Obligations.DefaultFaultIsUnsupportedOpcode := by
  intro s t f hf hbank hwrite hdec h
  rcases step_fault hf h with h | ⟨u, hu, h⟩
  · obtain ⟨op, hop⟩ := executeOne_default_fault hbank hwrite hdec h
    exact ⟨s.pc, op, hop⟩
  · have hcfg : u.playDriver.cfg = s.cfg := (playDriver_keeps u).cfg.trans (executeOne_keeps hu).cfg
    obtain ⟨v, hv⟩ := apuTick_ok (hcfg ▸ hbank) u.cost
    cases hv.symm.trans h

end Sys2Proof.Machine
end

section
/-! PROOFS. The statements about the song start (70_reset_and_hazards.md): what it leaves in every field (R35, R347, R400),
that the reset state is one (R400) and meets the invariant, and that nothing of the past is left (R350, R403). -/

namespace Sys2Proof.Machine

/-! ### What a song start depends on (R350, R403) -/

theorem startSong_of_image {s : State} {im : Image} (hcfg : s.cfg.wellFormed = true) (him : s.image = some im)
    (n : Int) : startSong n s = .next (s.songStart im (clampSong n im.songCount)) := by
  rw [startSong, him]
  exact if_pos hcfg

/-- A song start writes every field but the configuration and the image. -/
theorem songStart_congr {s t : State} (hcfg : s.cfg = t.cfg) (him : s.image = t.image) (im : Image) (n : Nat) :
    s.songStart im n = t.songStart im n := by
  cases s
  cases t
  subst hcfg him
  rfl

theorem startSong_congr {s t : State} (hcfg : s.cfg = t.cfg) (him : s.image = t.image)
    (hwf : s.cfg.wellFormed = true) (hne : s.image ≠ none) (n : Int) : startSong n s = startSong n t := by
  obtain ⟨im, hsome⟩ := Option.ne_none_iff_exists'.1 hne
  rw [startSong_of_image hwf hsome, startSong_of_image (hcfg ▸ hwf) (him ▸ hsome), songStart_congr hcfg him]

/-- Settles O55: the two song starts end in one state, so every later operation meets the same state. -/
theorem songStartForgetsThePast : Obligations.SongStartForgetsThePast := by
  intro s t n ops hcfg him hne hwf
  obtain ⟨im, hsome⟩ := Option.ne_none_iff_exists'.1 hne
  have hs := startSong_of_image hwf hsome n
  have hstep : hostStep (.startSong n) s = hostStep (.startSong n) t := by
    simp only [hostStep, ← startSong_congr hcfg him hwf hne n, hs, replyOf]
  rw [hostRun, hostRun, hstep]

/-- Settles O54: the song start on the blank image, from the reset state itself, leaves it as it is. -/
theorem resetIsSongStart : Obligations.ResetIsSongStart := by
  intro s n hcfg him
  have hwf : s.cfg.wellFormed = true := by
    rw [hcfg]
    decide +kernel
  have hclamp : clampSong n Image.blank.songCount = 1 := by
    show (min (max n 1) 1).toNat = 1
    omega
  have hreset : State.reset.songStart Image.blank 1 = State.reset := by decide +kernel
  rw [startSong_of_image hwf him, hclamp, songStart_congr (t := State.reset) hcfg him, hreset]

/-! ### The values it leaves (R400) -/

theorem clampSong_cast (n : Int) (count : Byte) : (clampSong n count : Int) = min (max n 1) count.toNat := by
  rw [clampSong]
  omega

theorem clampSong_lt (n : Int) (count : Byte) : clampSong n count < 256 := by
  have hcast := clampSong_cast n count
  have hcount := count.isLt
  omega

theorem songStart_a {n : Nat} (hn : n < 256) (im : Image) (s : State) : (s.songStart im n).a.toNat = n - 1 := by
  show (BitVec.ofNat 8 (n - 1)).toNat = n - 1
  rw [BitVec.toNat_ofNat, Nat.mod_eq_of_lt (by omega)]

/-- Two pushes from 0xFF on (R27, R400). -/
theorem songStart_sp (im : Image) (n : Nat) (s : State) : (s.songStart im n).sp = 0xFD := by
  show (0xFF - 1 - 1 : Byte) = 0xFD
  decide

/-- RAM holds the return address that step 9 pushes, the first byte at the top of the stack page (R27, R400). -/
theorem songStart_ram {s : State} (hc : s.cfg.Facts) (im : Image) (n : Nat) :
    (s.songStart im n).ram = (Memory.write [] 0x1FF (highByte (s.cfg.sentinelInit - 1))).write 0x1FE
      (lowByte (s.cfg.sentinelInit - 1)) := by
  have hsize := hc.ramSize
  have hhigh : (stackAddr 0xFF).toNat % s.cfg.ramSize = 0x1FF := Nat.mod_eq_of_lt hsize
  have hlow : (stackAddr (0xFF - 1)).toNat % s.cfg.ramSize = 0x1FE := Nat.mod_eq_of_lt (Nat.le_of_succ_le hsize)
  rw [← hhigh, ← hlow]
  rfl

theorem Memory.nil_wf : Memory.wf [] :=
  ⟨List.Pairwise.nil, fun _ h => absurd h List.not_mem_nil⟩

theorem songStart_ram_read {s : State} (hc : s.cfg.Facts) (im : Image) (n k : Nat) :
    (s.songStart im n).ram.read k =
      if k = 0x1FF then highByte (s.cfg.sentinelInit - 1)
      else if k = 0x1FE then lowByte (s.cfg.sentinelInit - 1) else 0 := by
  rw [songStart_ram hc, Memory.read_write _ _ _ _ (Memory.write_wf _ _ Memory.nil_wf).1,
    Memory.read_write _ _ _ _ Memory.nil_wf.1]
  by_cases hk : k = 0x1FF
  · simp [hk]
  · simp [hk, Memory.read, Memory.unlisted]

theorem defaultSelect_get (ov : Vector Byte 8) (k : Nat) (h : k < 8) :
    (defaultSelect ov)[k] = if ov[k] = 0 then k else ov[k].toNat := by
  have hpage : (defaultSelect ov)[k] = defaultPage ov ⟨k, h⟩ := by
    match k, h with
    | 0, _ | 1, _ | 2, _ | 3, _ | 4, _ | 5, _ | 6, _ | 7, _ => rfl
  rw [hpage, defaultPage, ite_not]
  rfl

theorem enabledLength_zero (on : Bool) : enabledLength on 0 = 0 :=
  ite_self 0

/-- The DMC of a song start is restarted if bit 4 of P_APU_RESET_4015 enables it (R254, R306). -/
theorem Dmc.reset_writeEnable (on : Bool) : Dmc.reset.writeEnable on = { Dmc.reset with
    enabled := on
    curAddr := if on = true then 0xC000 else 0
    bytesRemaining := if on = true then 1 else 0 } := by
  cases on <;> rfl

/-- The APU of a song start: its reset values with the enable flags of P_APU_RESET_4015 (R35, R254, R400). -/
theorem songStart_apu (im : Image) (n : Nat) (s : State) :
    let v := s.cfg.apuReset4015
    (s.songStart im n).apu = { Apu.reset with
      pulse1 := { Pulse.reset with enabled := v.getLsbD 0 }
      pulse2 := { Pulse.reset with enabled := v.getLsbD 1 }
      triangle := { Triangle.reset with enabled := v.getLsbD 2 }
      noise := { Noise.reset with enabled := v.getLsbD 3 }
      dmc := { Dmc.reset with
        enabled := v.getLsbD 4
        curAddr := if v.getLsbD 4 = true then 0xC000 else 0
        bytesRemaining := if v.getLsbD 4 = true then 1 else 0 } } := by
  intro v
  show Apu.writeEnable v Apu.reset = _
  rw [Apu.writeEnable, ← Dmc.reset_writeEnable]
  simp only [Apu.reset, Pulse.reset, Triangle.reset, Noise.reset, enabledLength_zero]

/-- Settles O53: the fields that are computed, by the lemmas above; the song start writes the others out. -/
theorem songStartValues : Obligations.SongStartValues := by
  intro s im n hcfg him _
  have hc := Config.facts hcfg
  exact ⟨_, startSong_of_image hcfg him n, clampSong_cast n im.songCount,
    songStart_a (clampSong_lt n im.songCount) im s, rfl, rfl, songStart_sp im _ s, rfl, rfl, rfl, rfl, rfl, rfl, rfl,
    rfl, fun k _ => songStart_ram_read hc im _ k,
    fun k h => defaultSelect_get im.overrides k h, songStart_apu im _ s, rfl, rfl⟩

/-! ### The invariant (R35, R400) -/

/-- Settles O59: each part of the invariant, on the values of the reset state. -/
theorem resetMeetsTheInvariant : Obligations.ResetMeetsTheInvariant := by
  refine ⟨{ configured := by decide +kernel, ram := ?ram, image := ?image, apu := ?apu }, rfl⟩
  case ram => exact ⟨⟨by decide, by decide⟩, by decide⟩
  case image =>
    rintro im ⟨⟩
    exact ⟨Memory.nil_wf, fun _ h => absurd h List.not_mem_nil⟩
  case apu =>
    have hpulse : PulseInRange Config.default { Pulse.reset with enabled := true } :=
      ⟨fun _ => by decide, by decide, by decide⟩
    have hnoise : NoiseInRange Config.default { Noise.reset with enabled := true } :=
      ⟨by decide, by decide, 0, by decide +kernel⟩
    have hdmc : DmcInRange Config.default Dmc.reset :=
      ⟨by decide, by decide, by decide, ⟨0, by decide +kernel⟩, fun h => absurd h (lt_irrefl 0)⟩
    exact ⟨hpulse, hpulse, Nat.zero_le 255, hnoise, hdmc, by decide, Nat.zero_le _⟩

end Sys2Proof.Machine
end
